-- ==== Sys2Proof/Word.lean ====
section
/-! DEFINITION. The widths of the engine's data (00_scope.md R10, 20_memory.md R50). -/

namespace Sys2Proof

/-- A byte: 8 bits, unsigned (00_scope.md R10). -/
abbrev Byte := BitVec 8

/-- A word: 16 bits, unsigned (00_scope.md R10). -/
abbrev Word := BitVec 16

/-- A host address: 10 bits (20_memory.md R50). -/
abbrev Addr := BitVec 10

/-- A host access as the bus carries it: 20 bits (30_encoding.md R88). -/
abbrev BusWord := BitVec 20

/-- A level of the wire: `low` is logic 0 and `high` is logic 1 (00_scope.md R16). What the engine
drives as `high` is a release (40_transceiver.md R102). -/
inductive Level where
  | low
  | high
deriving DecidableEq, Repr

/-- A stretch of a waveform: one level, held for `len` µs. -/
structure Segment where
  level : Level
  len : Nat
deriving DecidableEq, Repr

/-- One LOW pulse of the device: it pulls the line on `[start, stop)`, in µs of `now`
(40_transceiver.md R101; log 2). -/
structure Pulse where
  start : Nat
  stop : Nat
deriving DecidableEq, Repr

end Sys2Proof
end

