-- ==== Sys2Proof/Config.lean ====
section
/-! DEFINITION. What an implementation fixes (the parameters of 00_scope.md R7), the constants the
spec gives (R8, R9), and the free values, which are opaque. -/

namespace Sys2Proof

/-- The parameters of 00_scope.md R7, in its order. Durations are in µs, windows in samples,
capacities in bytes. The constraints of R7 are `Params.wf` (WellFormed.lean). -/
structure Params where
  /-- `TX_CAPACITY` -/
  txCapacity : Nat
  /-- `RX_CAPACITY` -/
  rxCapacity : Nat
  /-- `T_SAMPLE` -/
  tSample : Nat
  /-- `T1_LOW` -/
  t1Low : Nat
  /-- `T1_HIGH` -/
  t1High : Nat
  /-- `T0_LOW1` -/
  t0Low1 : Nat
  /-- `T0_HIGH1` -/
  t0High1 : Nat
  /-- `T0_LOW2` -/
  t0Low2 : Nat
  /-- `T0_HIGH2` -/
  t0High2 : Nat
  /-- `N_START` -/
  nStart : Nat
  /-- `N_RISE` -/
  nRise : Nat
  /-- `N_ZERO` -/
  nZero : Nat
  /-- `T_WAKE_LOW` -/
  tWakeLow : Nat
  /-- `T_WAKE_SETTLE` -/
  tWakeSettle : Nat
  /-- `T_SYNC_TIMEOUT` -/
  tSyncTimeout : Nat
  /-- `T_MAX_EXEC_DELAY` -/
  tMaxExecDelay : Nat
  /-- `T_POLL` -/
  tPoll : Nat
  /-- `N_SEND_ATTEMPTS` -/
  nSendAttempts : Nat
  /-- `N_RECV_ATTEMPTS` -/
  nRecvAttempts : Nat
  /-- `SLEEP_BYTE` -/
  sleepByte : Byte
  /-- `WAKE_ACK` -/
  wakeAck : Byte
  /-- `WAKE_SIG_LO` -/
  wakeSigLo : Byte
  /-- `WAKE_SIG_HI` -/
  wakeSigHi : Byte
  /-- `ST_SUCCESS` -/
  stSuccess : Byte
  /-- `ST_PARSE` -/
  stParse : Byte
  /-- `ST_EXEC` -/
  stExec : Byte
  /-- `ST_COMM` -/
  stComm : Byte
  /-- `CMD_PREFIX` -/
  cmdPrefix : List Byte
  /-- `RX_PREFIX` -/
  rxPrefix : List Byte
deriving DecidableEq, Repr, Inhabited

/-- The parameter set of the implementation, before the check of 70_reset_and_hazards.md R214. Opaque: nothing
can prove a value of it (log 1). -/
opaque Config.rawParams : Params

/-- The device's pull on the line from reset on (40_transceiver.md R101; 93_implementation_defined.md I13). Opaque (log 2). -/
opaque Config.deviceWaveform : List Pulse

/-- The unspecified bytes that host reads return while an operation runs (20_memory.md R61;
93_implementation_defined.md I9), by the number of such reads before. Opaque (log 4). -/
opaque Config.freeByte : Nat → Byte

end Sys2Proof
end

