-- ==== Sys2Proof/Syntax.lean ====
section
/-! DEFINITION. The operations of the engine (30_encoding.md R80: one constructor per row of
spec/opcode_table.json) and the host's accesses (R87 to R89). -/

namespace Sys2Proof

/-- The 13 operations of 30_encoding.md R80. An operation has no operand bits (R81, R82). -/
inductive Instr where
  | setSignal
  | sendBytes
  | receiveBytes
  | wakePulse
  | sleepByte
  | crcCompute
  | crcAppend
  | crcCheckRx
  | crcCheckTx
  | receiveFrame
  | wakeup
  | resync
  | sendAndReceive
deriving DecidableEq, Repr

/-- One host access to the register space, always of one byte (20_memory.md R50):
`rd a` and `wr a, v` of 30_encoding.md R87. -/
inductive BusAccess where
  | read (a : Addr)
  | write (a : Addr) (v : Byte)
deriving DecidableEq, Repr

/-- How long the host lets pass from one poll of STATUS to the next: so many µs, and then so many engine
steps. The spec leaves this open (30_encoding.md R89), and so it is data the host comes with
(DESIGN CHOICE, log 11). -/
structure Pace where
  us : Nat
  steps : Nat
deriving DecidableEq, Repr

/-- What the outside world does to the block between two engine steps. -/
inductive HostAccess where
  /-- One access on the host bus (20_memory.md R50). -/
  | bus (a : BusAccess)
  /-- A read of STATUS that the host repeats, at this pace, until it reads DONE = 1 (`wait` of
  30_encoding.md R89; log 11). -/
  | waitDone (p : Pace)
  /-- The reset input is asserted (70_reset_and_hazards.md R210). -/
  | resetAssert
  /-- The reset input is released (70_reset_and_hazards.md R210). -/
  | resetRelease
deriving DecidableEq, Repr

/-- A host access to come: it takes place once `wait` more µs have passed and then `steps` more
engine steps have been made (60_exceptions.md R193(e): every host access is ordered before or
after each engine step; log 3). -/
structure HostEvent where
  wait : Nat
  steps : Nat
  access : HostAccess
deriving DecidableEq, Repr

/-- A line of a host program (30_encoding.md R87 and the pseudo-instructions of R89). -/
inductive HostLine where
  | wr (a : Addr) (v : Byte)
  | rd (a : Addr)
  | op (i : Instr)
  | wait
  | wr16 (a : Addr) (v : Word)
  | ldtx (ix : Nat) (bs : List Byte)
  | rdrx (ix n : Nat)
deriving DecidableEq, Repr

end Sys2Proof
end

