-- ==== Sys2Proof/WellFormed.lean ====
section
/-! DEFINITION. Well-formedness: the constraints of 00_scope.md R7 on a parameter set
(70_reset_and_hazards.md R214), and of an operation. -/

namespace Sys2Proof

/-- The four status-byte values are pairwise distinct (00_scope.md R7). -/
def Params.statusDistinct (p : Params) : Bool :=
  p.stSuccess != p.stParse && p.stSuccess != p.stExec && p.stSuccess != p.stComm &&
  p.stParse != p.stExec && p.stParse != p.stComm && p.stExec != p.stComm

/-- Every constraint of 00_scope.md R7. -/
def Params.wf (p : Params) : Bool :=
  7 ≤ p.txCapacity && p.txCapacity ≤ 255 &&
  4 ≤ p.rxCapacity && p.rxCapacity ≤ 254 &&
  1 ≤ p.tSample && 1 ≤ p.t1Low && 1 ≤ p.t1High &&
  1 ≤ p.t0Low1 && 1 ≤ p.t0High1 && 1 ≤ p.t0Low2 && 1 ≤ p.t0High2 &&
  1 ≤ p.nStart && 1 ≤ p.nRise && 1 ≤ p.nZero &&
  1 ≤ p.tWakeLow && 1 ≤ p.tPoll &&
  1 ≤ p.nSendAttempts && 1 ≤ p.nRecvAttempts &&
  p.statusDistinct &&
  p.cmdPrefix.length ≤ 8 && p.rxPrefix.length ≤ 8

/-- A parameter set that meets 00_scope.md R7. A set that does not is refused by the type: no state
can hold it (70_reset_and_hazards.md R214, 93_implementation_defined.md I8; log 1). -/
abbrev WfParams := { p : Params // p.wf = true }

/-- A parameter set with every number at the least value 00_scope.md R7 allows. It only shows that
`WfParams` is inhabited. -/
def Params.least : Params where
  txCapacity := 7
  rxCapacity := 4
  tSample := 1
  t1Low := 1
  t1High := 1
  t0Low1 := 1
  t0High1 := 1
  t0Low2 := 1
  t0High2 := 1
  nStart := 1
  nRise := 1
  nZero := 1
  tWakeLow := 1
  tWakeSettle := 0
  tSyncTimeout := 0
  tMaxExecDelay := 0
  tPoll := 1
  nSendAttempts := 1
  nRecvAttempts := 1
  sleepByte := 0
  wakeAck := 0
  wakeSigLo := 0
  wakeSigHi := 0
  stSuccess := 0
  stParse := 1
  stExec := 2
  stComm := 3
  cmdPrefix := []
  rxPrefix := []

/-- The parameters of the implementation: an unknown set that meets 00_scope.md R7 (log 1). -/
def Config.params : WfParams :=
  if h : Config.rawParams.wf = true then ⟨Config.rawParams, h⟩ else ⟨Params.least, by decide⟩

/-- Every operation is well-formed: an operation code carries no operand bits (30_encoding.md R82). -/
def Instr.wellFormed : Instr → Bool
  | .setSignal | .sendBytes | .receiveBytes | .wakePulse | .sleepByte
  | .crcCompute | .crcAppend | .crcCheckRx | .crcCheckTx
  | .receiveFrame | .wakeup | .resync | .sendAndReceive => true

end Sys2Proof
end

