-- ==== Sys2Proof/Decode.lean ====
section
/-! DEFINITION. Decoding and encoding: the operation code written to CMD (30_encoding.md R80, R81)
and the bus word of a host access (R88). -/

namespace Sys2Proof

/-- The operation a CMD byte names, all 8 bits matched (30_encoding.md R80, R81); `none` for an
unassigned code (R84). -/
def decode (w : Byte) : Option Instr :=
  match w.toNat with
  | 0x10 => some .setSignal
  | 0x11 => some .sendBytes
  | 0x12 => some .receiveBytes
  | 0x13 => some .wakePulse
  | 0x14 => some .sleepByte
  | 0x20 => some .crcCompute
  | 0x21 => some .crcAppend
  | 0x22 => some .crcCheckRx
  | 0x23 => some .crcCheckTx
  | 0x30 => some .receiveFrame
  | 0x31 => some .wakeup
  | 0x32 => some .resync
  | 0x33 => some .sendAndReceive
  | _ => none

/-- The CMD value of an operation (30_encoding.md R80). -/
def encode : Instr → Byte
  | .setSignal => 0x10
  | .sendBytes => 0x11
  | .receiveBytes => 0x12
  | .wakePulse => 0x13
  | .sleepByte => 0x14
  | .crcCompute => 0x20
  | .crcAppend => 0x21
  | .crcCheckRx => 0x22
  | .crcCheckTx => 0x23
  | .receiveFrame => 0x30
  | .wakeup => 0x31
  | .resync => 0x32
  | .sendAndReceive => 0x33

/-- The byte that `nbits` bits `w` of an opcode-table row stand for: an operation code is exactly one
byte (30_encoding.md R85), so only the low 8 bits can be set. -/
def tableByte (nbits w : Nat) : Byte := BitVec.ofNat 8 (w % 2 ^ nbits)

/-- The instruction the decoder reads from an opcode-table word. -/
def decodeTableWord (nbits w : Nat) : Option Instr := decode (tableByte nbits w)

/-- The host access a 20-bit bus word carries (30_encoding.md R88): bit 19 is 1 for a write, bit 18 is
0, bits 17:8 are the address, bits 7:0 the value of a write and 0x00 for a read. Any other word
is no access (log 13). -/
def decodeBus (w : BusWord) : Option BusAccess :=
  if w.getLsbD 18 then none
  else if w.getLsbD 19 then some (.write (w.extractLsb' 8 10) (w.extractLsb' 0 8))
  else if w.extractLsb' 0 8 = 0#8 then some (.read (w.extractLsb' 8 10))
  else none

/-- The 20-bit bus word of a host access (30_encoding.md R88). -/
def encodeBus : BusAccess → BusWord
  | .write a v => 0b10#2 ++ a ++ v
  | .read a => 0b00#2 ++ a ++ 0#8

end Sys2Proof
end

