-- ==== Sys2Proof/Machine/Microcode.lean ====
section
/-! DEFINITION. The language of the sequencer. The spec gives every operation as sequential
pseudocode (00_scope.md R14, R15), and the sequencer's state is "the position inside that
operation's pseudocode" (10_state.md R21). So the pseudocode is data: a `Stmt`. The rest of a
running operation is again a `Stmt`, and that is the position State holds. What each constructor
does is Machine/Engine.lean; the operations' pseudocode is Machine/Transceiver.lean, Crc.lean and
Framer.lean. -/

namespace Sys2Proof.Machine

/-- Result codes (30_encoding.md R86). Codes 0xE and 0xF are reserved and never produced, so
they have no constructor. -/
inductive ResultCode where
  | success
  | parameterError
  | rxTimeout
  | rxPartial
  | invalidFrameSize
  | badChecksum
  | commFailure
  | deviceCommStatus
  | deviceParseError
  | deviceExecutionError
  | deviceOtherStatus
  | resyncedWithWakeup
  | fatalCommFailure
  | unknownOperation
deriving DecidableEq, Repr

/-- The communication states of COMM_STATE (10_state.md R34). Code 3 is never written, so it has no
constructor. -/
inductive CommState where
  | unknownAsleep
  | awakeSynced
  | deviceBusy
deriving DecidableEq, Repr

/-- `last_escalation` (10_state.md R39). -/
inductive Escalation where
  | none
  | deviceCommStatus
deriving DecidableEq, Repr

/-- The outcome of WaitLevel (40_transceiver.md R103). -/
inductive WaitOutcome where
  | found (k : Nat)
  | timeout
deriving DecidableEq, Repr

/-- The outcome of ReceiveBit (40_transceiver.md R107). -/
inductive BitOutcome where
  | one
  | zero
  | timeout
deriving DecidableEq, Repr

/-- The outcome of CheckFrame (41_crc.md R132). -/
inductive CheckOutcome where
  | matched
  | mismatch
  | badLen
deriving DecidableEq, Repr

/-- The outcome of Resync (42_framer.md R154). -/
inductive ResyncOutcome where
  | synced
  | rewoken
  | unreachable
deriving DecidableEq, Repr

/-- A number the pseudocode uses as a loop bound, a duration in µs or a byte count. -/
inductive Qty where
  /-- A number known when the operation starts: a parameter, or a literal of the pseudocode. -/
  | lit (n : Nat)
  /-- `ARG_LEN` -/
  | argLen
  /-- `ARG_RSP_SIZE`, the bound R of the deframer -/
  | rspSize
  /-- `L - 1` with `L = RX[0]` (42_framer.md R152) -/
  | bytesLeft
  /-- `count` of the running ReceiveBytes (40_transceiver.md R108) -/
  | recvCount
  /-- `m = N_ZERO - k - 1` (40_transceiver.md R107) -/
  | trailing
  /-- `N_POLL` (42_framer.md R155) -/
  | pollAttempts
  /-- `1000 * ARG_EXEC_DELAY` (42_framer.md R157) -/
  | execDelay
  /-- `T_POLL - (now - t0)` (42_framer.md R155) -/
  | pollPad
deriving DecidableEq, Repr

/-- A byte list the pseudocode sends. -/
inductive Source where
  /-- `TX[0..ARG_LEN-1]` (40_transceiver.md R111) -/
  | txArgLen
  /-- `[SLEEP_BYTE]` (40_transceiver.md R114) -/
  | sleepByte
  /-- `CMD_PREFIX ++ TX[0..L-1]` with `L = TX[0]` (42_framer.md R151) -/
  | commandFrame
  /-- `RX_PREFIX` (42_framer.md R152) -/
  | rxPrefix
deriving DecidableEq, Repr

/-- A condition the pseudocode tests. -/
inductive Cond where
  /-- `ARG_LEN > TX_CAPACITY` -/
  | argLenOverTx
  /-- `ARG_LEN > RX_CAPACITY` -/
  | argLenOverRx
  /-- `ARG_LEN + 2 > TX_CAPACITY` -/
  | appendOverTx
  /-- `ARG_RSP_SIZE < 4 or ARG_RSP_SIZE > RX_CAPACITY` -/
  | rspSizeIllegal
  /-- `CheckFrame(RX, RX_CAPACITY) == BADLEN` -/
  | rxBadLen
  /-- `CheckFrame(TX, TX_CAPACITY) == BADLEN` -/
  | txBadLen
  /-- `TX[0] < 7 or TX[0] > TX_CAPACITY` or `rspSizeIllegal` -/
  | exchangeIllegal
  /-- `Sample() == level` -/
  | lineIs (l : Level)
  /-- The last WaitLevel returned TIMEOUT. -/
  | waitTimedOut
  /-- `m >= 1` (40_transceiver.md R107) -/
  | trailingLeft
  /-- The last ReceiveBit returned `b`. -/
  | bitIs (b : BitOutcome)
  /-- `st == c` -/
  | stIs (c : ResultCode)
  /-- `rs == r` -/
  | rsIs (r : ResyncOutcome)
  /-- `L == 0xFF or L < 4 or L > R` with `L = RX[0]` (42_framer.md R152) -/
  | lengthIllegal
  /-- `len(RX_PREFIX) > 0` -/
  | hasRxPrefix
  /-- `now - t0 < T_POLL` (42_framer.md R155) -/
  | attemptShort
  /-- The last CheckFrame returned MATCH. -/
  | frameMatches
  /-- `RX[0] > 4` (42_framer.md R157) -/
  | dataResponse
  /-- `RX[1] == ST_COMM` (42_framer.md R157) -/
  | statusIsComm
  /-- `last_escalation == DEVICE_COMM_STATUS` -/
  | escalated
deriving DecidableEq, Repr

/-- A step of the pseudocode that takes no time and writes State. -/
inductive Action where
  /-- `drive_low <- 0` -/
  | release
  /-- `drive_low <- (ARG_LEVEL[0] == 0) ? 1 : 0` -/
  | driveArgLevel
  /-- WaitLevel starts: `k = 0`. -/
  | firstSample
  /-- WaitLevel goes on: the next k. -/
  | nextSample
  /-- WaitLevel returns FOUND(k). -/
  | waitFound
  /-- WaitLevel returns TIMEOUT. -/
  | waitTimeout
  /-- ReceiveBit returns `b`. -/
  | bitIs (b : BitOutcome)
  /-- ReceiveBytes is called with `off` and `count`. -/
  | callReceive (off : Nat) (count : Qty)
  /-- `i = 0` -/
  | firstByte
  /-- the next i -/
  | nextByte
  /-- `k = 0` -/
  | firstBit
  /-- the next k -/
  | nextBit
  /-- `RX[off+i] <- RX[off+i] OR (1 << k)` -/
  | orBit
  /-- A bit timed out: `RX_COUNT <- off + i`, and st is RX_TIMEOUT or RX_PARTIAL. -/
  | receiveFailed
  /-- All bytes came: `RX_COUNT <- off + count`, and st is SUCCESS. -/
  | receiveDone
  /-- `RX[0..n-1] <- 0x00` -/
  | zeroRx (n : Qty)
  /-- `st <- c` -/
  | setSt (c : ResultCode)
  /-- The checks of the wake response: st becomes `w` (42_framer.md R153). -/
  | judgeWake
  /-- `COMM_STATE <- c` -/
  | setComm (c : CommState)
  /-- `STATUS.SESSION_LOST <- 1` -/
  | setSessionLost
  /-- `rs <- r` -/
  | setRs (r : ResyncOutcome)
  /-- `CRC_RESULT <- Crc16(TX[0..n-1])` with `n = ARG_LEN` -/
  | crcCompute
  /-- The CRC of `TX[0..n-1]` goes to `TX[n]`, `TX[n+1]` and CRC_RESULT, with `n = ARG_LEN`. -/
  | crcAppend
  /-- `CheckFrame(RX, RX_CAPACITY)`; CRC_RESULT is its recomputed CRC. -/
  | crcCheckRx
  /-- `CheckFrame(TX, TX_CAPACITY)`; CRC_RESULT is its recomputed CRC. -/
  | crcCheckTx
  /-- Step 1 of SendAndReceive: the CRC goes to `TX[L-2]`, `TX[L-1]` and CRC_RESULT. -/
  | appendFrameCrc
  /-- `CheckFrame(RX, R)` -/
  | checkFrame
  /-- The outer loop starts. -/
  | firstSend
  /-- The next s; `last_escalation <- NONE`. -/
  | nextSend
  /-- The inner loop starts. -/
  | firstRecv
  /-- The next r. -/
  | nextRecv
  /-- The poll loop starts. -/
  | firstPoll
  /-- The next p; `t0 <- now`. -/
  | nextPoll
  /-- `last_escalation <- DEVICE_COMM_STATUS` -/
  | escalate
deriving DecidableEq, Repr

/-- The code `finish` is called with. -/
inductive Finish where
  /-- A code written in the pseudocode. -/
  | code (c : ResultCode)
  /-- `finish(st)` -/
  | fromSt
  /-- `finish(v == MATCH ? SUCCESS : BAD_CHECKSUM)` (41_crc.md R135, R136) -/
  | fromCheck
  /-- `finish(StatusResult(RX[1]))` (42_framer.md R156, R157) -/
  | fromStatus
deriving DecidableEq, Repr

/-- Sequential pseudocode (00_scope.md R14, R15), and so also a position inside it. -/
inductive Stmt where
  | skip
  /-- A step without a duration. -/
  | act (a : Action)
  /-- `Delay(d)` (40_transceiver.md R102) -/
  | delay (d : Qty)
  /-- `Drive(level, len)` for each segment, in order (40_transceiver.md R102). -/
  | drives (gs : List Segment)
  /-- `SendBytes(bs)` (40_transceiver.md R106) -/
  | send (src : Source)
  | seq (a b : Stmt)
  | ite (c : Cond) (a b : Stmt)
  /-- `for … in 1..n: body` -/
  | loop (n : Qty) (body : Stmt)
  /-- A running loop: what is left of this iteration, and how many more iterations follow. -/
  | iter (cur : Stmt) (n : Nat) (body : Stmt)
  /-- The body of a named procedure: `ret` leaves it. -/
  | proc (body : Stmt)
  | brk
  | ret
  | finish (f : Finish)
deriving DecidableEq, Repr

/-- Statements one after the other. -/
def Stmt.block : List Stmt → Stmt
  | [] => .skip
  | [a] => a
  | a :: as => .seq a (Stmt.block as)

/-- `if c: a` -/
def Stmt.when (c : Cond) (a : Stmt) : Stmt := .ite c a .skip

end Sys2Proof.Machine
end

