-- ==== Sys2Proof/Machine/State.lean ====
section
/-! DEFINITION. The state of the engine (10_state.md), as plain data, and its value after reset
(10_state.md R42). -/

namespace Sys2Proof.Machine

/-- A buffer, by index: strictly rising indices, and no entry of value 0x00, which is what an
unlisted index reads as (10_state.md R36, R37: reset all 0x00). The canonical form is
`Memory.wf` (Machine/Ops.lean). -/
abbrev Memory := List Host.Cell

/-- The bits of STATUS (10_state.md R24). Bits 7:4 read 0 and are not stored (R43). -/
structure Status where
  active : Bool
  done : Bool
  sessionLost : Bool
  cmdRejected : Bool
deriving DecidableEq, Repr

/-- The sequencer (10_state.md R21, R39) and the local variables of the running pseudocode. -/
structure Sequencer where
  /-- OP, the running operation; `none` when idle, or for an unassigned code. -/
  op : Option Instr
  /-- The rest of the running operation's pseudocode: the current step, the position inside a Delay,
  the tokens of a running send still to drive, the loop iterations left. -/
  code : Stmt
  /-- The outer-loop counter. -/
  s : Nat
  /-- The inner-loop counter. -/
  r : Nat
  /-- The poll counter. -/
  p : Nat
  lastEscalation : Escalation
  /-- `off` and `count` of ReceiveBytes, and its position: byte i, bit k (40_transceiver.md R108). -/
  off : Nat
  count : Nat
  byteIx : Nat
  bitIx : Nat
  /-- The sample number of WaitLevel, and its result (40_transceiver.md R103). -/
  sampleIx : Nat
  waited : WaitOutcome
  /-- The result of ReceiveBit (40_transceiver.md R107). -/
  bit : BitOutcome
  /-- `st`, and `w` of Wakeup (42_framer.md R152, R153). -/
  st : ResultCode
  /-- `rs` (42_framer.md R157). -/
  rs : ResyncOutcome
  /-- The result of CheckFrame (41_crc.md R132). -/
  matched : CheckOutcome
  /-- `t0` of PollReceive (42_framer.md R155). -/
  t0 : Nat
deriving DecidableEq, Repr

/-- The idle sequencer (10_state.md R42). Its values are defined only while ACTIVE = 1 (R39); the
values here are the model's (DESIGN CHOICE, log 6). -/
def Sequencer.idle : Sequencer where
  op := none
  code := .skip
  s := 0
  r := 0
  p := 0
  lastEscalation := .none
  off := 0
  count := 0
  byteIx := 0
  bitIx := 0
  sampleIx := 0
  waited := .timeout
  bit := .timeout
  st := .success
  rs := .synced
  matched := .mismatch
  t0 := 0

/-- The state of the machine. -/
structure State where
  /-- The parameters of 00_scope.md R7: fixed, no step changes them (log 1). -/
  params : WfParams
  /-- CMD (10_state.md R23). -/
  cmd : Byte
  /-- STATUS (10_state.md R24). -/
  status : Status
  /-- RESULT (10_state.md R25). -/
  result : ResultCode
  /-- ARG_LEN (10_state.md R26). -/
  argLen : Byte
  /-- ARG_LEVEL bit 0, LEVEL (10_state.md R27). Bits 7:1 read 0 and are not stored. -/
  argLevel : Bool
  /-- ARG_RSP_SIZE (10_state.md R28). -/
  argRspSize : Byte
  /-- ARG_EXEC_DELAY, in ms (10_state.md R29). -/
  argExecDelay : Word
  /-- ARG_EXEC_TIMEOUT, in ms (10_state.md R30). -/
  argExecTimeout : Word
  /-- CRC_RESULT (10_state.md R31). -/
  crcResult : Word
  /-- RX_COUNT (10_state.md R32). -/
  rxCount : Byte
  /-- COMM_STATE (10_state.md R34). -/
  commState : CommState
  /-- `drive_low` of the wire port (10_state.md R33). -/
  driveLow : Bool
  /-- `now`, in µs (10_state.md R35). -/
  now : Nat
  /-- TX (10_state.md R36). -/
  tx : Memory
  /-- RX (10_state.md R37). -/
  rx : Memory
  /-- The internal CRC register (10_state.md R38; log 5). -/
  crc : Word
  /-- The sequencer (10_state.md R39). -/
  seq : Sequencer
  /-- Input: when the device pulls the line LOW (40_transceiver.md R101; log 2). -/
  dev : List Pulse
  /-- Input: the host's accesses to come, in the order it issues them (20_memory.md R62; log 3). -/
  host : List HostEvent
  /-- Input: the reset input is asserted (70_reset_and_hazards.md R210; log 10). -/
  resetIn : Bool
  /-- Output: what the engine has driven since `now` was 0, the latest stretch first; a `high`
  stretch is a released line (`drive_low(t)` of 40_transceiver.md R101, R102; log 7). -/
  trace : List Segment
  /-- Output: the bytes the host has read, the latest first (log 8). -/
  reads : List Byte
  /-- The number of unspecified bytes the host has read (20_memory.md R61; log 4). -/
  freeCount : Nat
deriving DecidableEq, Repr

/-- Why a step stops with a fault. Nothing in the block is a fault: every operation finishes with a
result code, and nothing is trapped (60_exceptions.md R190, R195; 93_implementation_defined.md
section 1). So there is no reason, and no step can raise one (log 16). -/
inductive Fault
deriving DecidableEq, Repr

/-- Why an instruction has no meaning. -/
inductive Refusal where
  /-- Raised by an arm of `exec` whose operation is not modelled. No arm raises it: every operation
  of 30_encoding.md R80 has its meaning. Safe: the machine stops. -/
  | notModelled (mnemonic : String)
deriving DecidableEq, Repr

/-- The machine right after reset (10_state.md R42, 70_reset_and_hazards.md R210), with the reset
input released. The parameters and the device's waveform are unknown constants (log 1, log 2);
no host access is scheduled (log 9). -/
def State.reset : State where
  params := Config.params
  cmd := 0
  status := ⟨false, false, false, false⟩
  result := .success
  argLen := 0
  argLevel := false
  argRspSize := 0
  argExecDelay := 0
  argExecTimeout := 0
  crcResult := 0
  rxCount := 0
  commState := .unknownAsleep
  driveLow := false
  now := 0
  tx := []
  rx := []
  crc := 0
  seq := .idle
  dev := Config.deviceWaveform
  host := []
  resetIn := false
  trace := []
  reads := []
  freeCount := 0

end Sys2Proof.Machine
end

