-- ==== Sys2Proof/Machine/Ops.lean ====
section
/-! DEFINITION. The named operations over State: buffers, byte order, the wire and the time base,
the order of host accesses and engine steps, and the start and `finish` of an operation.

The engine has no trap: the operation that stands in the place of taking an exception is `finish`
(00_scope.md R13, 60_exceptions.md R190, R195), and there is no return from it (R196). -/

namespace Sys2Proof.Machine

/-! ### Buffers -/

/-- The byte at an index; 0x00 where none is listed (10_state.md R36, R37). -/
def Memory.read : Memory → Nat → Byte
  | [], _ => 0#8
  | (a, v) :: m, i => if a = i then v else Memory.read m i

/-- Writes a byte at an index, keeping the canonical form: 0x00 is not listed. -/
def Memory.write : Memory → Nat → Byte → Memory
  | [], i, v => if v = 0#8 then [] else [(i, v)]
  | (a, w) :: m, i, v =>
    if i < a then (if v = 0#8 then (a, w) :: m else (i, v) :: (a, w) :: m)
    else if i = a then (if v = 0#8 then m else (i, v) :: m)
    else (a, w) :: Memory.write m i v

/-- The indices rise strictly from `lo` on, and no byte is 0x00. -/
def Memory.wfFrom : Nat → Memory → Bool
  | _, [] => true
  | lo, (a, v) :: m => decide (lo ≤ a) && v != 0#8 && Memory.wfFrom (a + 1) m

/-- The canonical form. -/
def Memory.wf (m : Memory) : Bool := Memory.wfFrom 0 m

/-- Every listed index is below `cap`. -/
def Memory.within (cap : Nat) (m : Memory) : Bool := m.all fun c => c.1 < cap

/-- `for i in 0..n-1: buf[i] <- 0x00` -/
def Memory.zeroFill (m : Memory) : Nat → Memory
  | 0 => m
  | n + 1 => Memory.write (Memory.zeroFill m n) n 0#8

/-- `buf[0..n-1]`, a byte list with index 0 first (00_scope.md R12). -/
def Memory.prefixBytes (m : Memory) (n : Nat) : List Byte := (List.range n).map m.read

/-- `TX[i] <- v`. TX has TX_CAPACITY bytes (10_state.md R36); no other index exists (log 14). -/
def State.writeTx (i : Nat) (v : Byte) (s : State) : State :=
  if i < s.params.val.txCapacity then { s with tx := s.tx.write i v } else s

/-- `RX[i] <- v`. RX has RX_CAPACITY bytes (10_state.md R37); no other index exists (log 14). -/
def State.writeRx (i : Nat) (v : Byte) (s : State) : State :=
  if i < s.params.val.rxCapacity then { s with rx := s.rx.write i v } else s

/-! ### Byte order (20_memory.md R54, R56) -/

/-- Bits 7:0 of a 16-bit value. -/
def loByte (w : Word) : Byte := w.extractLsb' 0 8

/-- Bits 15:8 of a 16-bit value. -/
def hiByte (w : Word) : Byte := w.extractLsb' 8 8

/-- Replaces bits 7:0 of a 16-bit register. -/
def withLo (w : Word) (v : Byte) : Word := hiByte w ++ v

/-- Replaces bits 15:8 of a 16-bit register. -/
def withHi (w : Word) (v : Byte) : Word := v ++ loByte w

/-! ### The wire (40_transceiver.md R101) -/

/-- `dev_low(now)`: the device pulls the line. -/
def State.devLow (s : State) : Bool := s.dev.any fun p => p.start ≤ s.now && s.now < p.stop

/-- `line(now)`: LOW if the engine or the device pulls, HIGH otherwise (40_transceiver.md R101). -/
def State.line (s : State) : Level := if s.driveLow || s.devLow then .low else .high

/-- What the engine drives: LOW, or HIGH for a release. -/
def State.driven (s : State) : Level := if s.driveLow then .low else .high

/-- `drive_low <- (level == LOW) ? 1 : 0` -/
def State.setDrive (l : Level) (s : State) : State := { s with driveLow := l == .low }

/-- Appends `d` µs of a level to a waveform kept with its latest stretch first; stretches of the
same level are one. -/
def extendTrace (tr : List Segment) (l : Level) (d : Nat) : List Segment :=
  if d = 0 then tr
  else match tr with
    | g :: rest => if g.level = l then ⟨l, g.len + d⟩ :: rest else ⟨l, d⟩ :: tr
    | [] => [⟨l, d⟩]

/-! ### Time (40_transceiver.md R102) and the host's accesses -/

/-- The host's first access to come waits `d` µs less. -/
def hostAfter (d : Nat) : List HostEvent → List HostEvent
  | [] => []
  | e :: rest => { e with wait := e.wait - d } :: rest

/-- `d` µs pass: `now <- now + d`, with `drive_low` constant. -/
def State.pass (d : Nat) (s : State) : State :=
  { s with now := s.now + d, trace := extendTrace s.trace s.driven d, host := hostAfter d s.host }

/-- The host's first access takes place now, before the next engine step. -/
def State.due (s : State) : Bool :=
  match s.host with
  | [] => false
  | e :: _ => e.wait == 0 && e.steps == 0

/-- One engine step is made: if the host's first access has no more µs to wait, it waits one engine
step less (log 3). -/
def State.tick (s : State) : State :=
  match s.host with
  | [] => s
  | e :: rest => if e.wait = 0 then { s with host := { e with steps := e.steps - 1 } :: rest } else s

/-! ### Start and end of an operation -/

/-- An accepted CMD write (10_state.md R23): the byte is stored, DONE, SESSION_LOST and CMD_REJECTED
are cleared, ACTIVE is set, and the sequencer stands at the start of the operation. -/
def State.accept (code : Byte) (op : Option Instr) (prog : Stmt) (s : State) : State :=
  { s with
    cmd := code
    status := { active := true, done := false, sessionLost := false, cmdRejected := false }
    seq := { Sequencer.idle with op := op, code := prog } }

/-- A CMD write while ACTIVE = 1 (10_state.md R23, 60_exceptions.md R197). -/
def State.rejectCmd (s : State) : State :=
  { s with status := { s.status with cmdRejected := true } }

/-- `finish(code)` (00_scope.md R13): RESULT, DONE and ACTIVE are written, the wire is not, and the
sequencer is idle (log 6). -/
def State.finish (code : ResultCode) (s : State) : State :=
  { s with
    result := code
    status := { s.status with done := true, active := false }
    seq := Sequencer.idle }

/-! ### Reset (70_reset_and_hazards.md R210) -/

/-- The device's waveform, seen from a time base whose 0 is at the old time `d`. -/
def rebase (d : Nat) (dev : List Pulse) : List Pulse :=
  dev.map fun p => ⟨p.start - d, p.stop - d⟩

/-- The reset input is asserted: every piece of state takes its reset value at once, the line is
released, `now` is 0, and a running operation is abandoned without `finish` (R210, R211). The
parameters are fixed, and the device, the host and what the host has read are not engine state. -/
def State.assertReset (s : State) : State :=
  { State.reset with
    params := s.params
    dev := rebase s.now s.dev
    host := s.host
    resetIn := true
    reads := s.reads
    freeCount := s.freeCount }

/-- The reset input is released: the engine is idle and waits for a CMD write (R210). -/
def State.releaseReset (s : State) : State := { s with resetIn := false }

/-- `d` µs pass while the reset input is asserted: `now` stays 0 and the wire stays released (log 10). -/
def State.passInReset (d : Nat) (s : State) : State :=
  { s with dev := rebase d s.dev, host := hostAfter d s.host }

end Sys2Proof.Machine
end

