-- ==== Sys2Proof/Machine/CrcEngine.lean ====
section
/-! DEFINITION. The CRC-16 engine's functions (41_crc.md R130 to R132). -/

namespace Sys2Proof.Machine

/-- `CRC_POLY` (00_scope.md R8). -/
def crcPoly : Word := 0x8005

/-- `CRC_INIT` (00_scope.md R8). -/
def crcInit : Word := 0x0000

/-- One data bit: the feedback is the data bit XOR bit 15 of the register, the register shifts left
modulo 2^16, and the polynomial is added on feedback (41_crc.md R130). -/
def crcBit (crc : Word) (d : Bool) : Word :=
  if d ^^ crc.getLsbD 15 then (crc <<< 1) ^^^ crcPoly else crc <<< 1

/-- The bits of a byte in wire order, bit 0 first (20_memory.md R55). -/
def bitsOf (b : Byte) : List Bool :=
  [b.getLsbD 0, b.getLsbD 1, b.getLsbD 2, b.getLsbD 3, b.getLsbD 4, b.getLsbD 5, b.getLsbD 6, b.getLsbD 7]

/-- One byte, bit 0 first (41_crc.md R130). -/
def crcByte (crc : Word) (b : Byte) : Word := (bitsOf b).foldl crcBit crc

/-- `Crc16(bs)` (41_crc.md R130). -/
def crc16 (bs : List Byte) : Word := bs.foldl crcByte crcInit

/-- `CrcBytes(c)`: crc_lo, then crc_hi (41_crc.md R131). -/
def crcBytes (c : Word) : List Byte := [loByte c, hiByte c]

/-- The length byte of the frame in a buffer. -/
def Memory.frameLen (m : Memory) : Nat := (m.read 0).toNat

/-- `Crc16(buf[0..L-3])` with `L = buf[0]` (41_crc.md R132). -/
def Memory.frameCrc (m : Memory) : Word := crc16 (m.prefixBytes (m.frameLen - 2))

/-- `CheckFrame(buf, cap)` (41_crc.md R132). -/
def Memory.checkFrame (m : Memory) (cap : Nat) : CheckOutcome :=
  if m.frameLen < 3 || cap < m.frameLen then .badLen
  else if m.read (m.frameLen - 2) == loByte m.frameCrc && m.read (m.frameLen - 1) == hiByte m.frameCrc then .matched
  else .mismatch

end Sys2Proof.Machine
end

