-- ==== Sys2Proof/Machine/Flags.lean ====
section
/-! DEFINITION. The coded values a host reads: the STATUS bits (10_state.md R24, R41), the result
codes (30_encoding.md R86), the communication state (10_state.md R34) and the WIRE bits (R33). -/

namespace Sys2Proof.Machine

/-- Bit `k` of a byte, set or clear. -/
def bitAt (k : Nat) (b : Bool) : Byte := if b then 1#8 <<< k else 0

/-- The STATUS byte: bit 0 ACTIVE, bit 1 DONE, bit 2 SESSION_LOST, bit 3 CMD_REJECTED, bits 7:4 read 0
(10_state.md R24). -/
def Status.toByte (t : Status) : Byte :=
  bitAt 0 t.active ||| bitAt 1 t.done ||| bitAt 2 t.sessionLost ||| bitAt 3 t.cmdRejected

/-- The number of a result code (30_encoding.md R86), as RESULT[3:0]; bits 7:4 read 0. -/
def ResultCode.toByte : ResultCode → Byte
  | .success => 0x0
  | .parameterError => 0x1
  | .rxTimeout => 0x2
  | .rxPartial => 0x3
  | .invalidFrameSize => 0x4
  | .badChecksum => 0x5
  | .commFailure => 0x6
  | .deviceCommStatus => 0x7
  | .deviceParseError => 0x8
  | .deviceExecutionError => 0x9
  | .deviceOtherStatus => 0xA
  | .resyncedWithWakeup => 0xB
  | .fatalCommFailure => 0xC
  | .unknownOperation => 0xD

/-- COMM_STATE[1:0]; bits 7:2 read 0 (10_state.md R34). -/
def CommState.toByte : CommState → Byte
  | .unknownAsleep => 0
  | .awakeSynced => 1
  | .deviceBusy => 2

/-- The WIRE byte: bit 0 LINE is the level of the line now, bit 1 is `drive_low`, bits 7:2 read 0
(10_state.md R33). -/
def State.wireByte (s : State) : Byte :=
  bitAt 0 (s.line == .high) ||| bitAt 1 s.driveLow

end Sys2Proof.Machine
end

