-- ==== Sys2Proof/Machine/Operands.lean ====
section
/-! DEFINITION. The operands of the operations (30_encoding.md R82, R83): the numbers, byte lists,
conditions and finish codes that the pseudocode reads from State. -/

namespace Sys2Proof.Machine

/-- `n = ARG_LEN`, unsigned (30_encoding.md R83). -/
def State.len (s : State) : Nat := s.argLen.toNat

/-- `R = ARG_RSP_SIZE`, unsigned (30_encoding.md R83). -/
def State.bound (s : State) : Nat := s.argRspSize.toNat

/-- `1000 * ARG_EXEC_DELAY`, in µs (30_encoding.md R83). -/
def State.execDelayUs (s : State) : Nat := 1000 * s.argExecDelay.toNat

/-- `1000 * ARG_EXEC_TIMEOUT`, in µs (30_encoding.md R83). -/
def State.execTimeoutUs (s : State) : Nat := 1000 * s.argExecTimeout.toNat

/-- `N_POLL = max(1, ceil(T / T_POLL))` with `T = 1000 * ARG_EXEC_TIMEOUT` (42_framer.md R155). -/
def State.nPoll (s : State) : Nat :=
  max 1 ((s.execTimeoutUs + (s.params.val.tPoll - 1)) / s.params.val.tPoll)

/-- `m = N_ZERO - k - 1` after FOUND(k) (40_transceiver.md R107). -/
def State.trailingSamples (s : State) : Nat :=
  match s.seq.waited with
  | .found k => s.params.val.nZero - k - 1
  | .timeout => 0

/-- The value of a number of the pseudocode. -/
def Qty.value (q : Qty) (s : State) : Nat :=
  match q with
  | .lit n => n
  | .argLen => s.len
  | .rspSize => s.bound
  | .bytesLeft => s.rx.frameLen - 1
  | .recvCount => s.seq.count
  | .trailing => s.trailingSamples
  | .pollAttempts => s.nPoll
  | .execDelay => s.execDelayUs
  | .pollPad => s.params.val.tPoll - (s.now - s.seq.t0)

/-- The bytes of a list the pseudocode sends. -/
def Source.bytes (src : Source) (s : State) : List Byte :=
  match src with
  | .txArgLen => s.tx.prefixBytes s.len
  | .sleepByte => [s.params.val.sleepByte]
  | .commandFrame => s.params.val.cmdPrefix ++ s.tx.prefixBytes s.tx.frameLen
  | .rxPrefix => s.params.val.rxPrefix

/-- SendBit as drives (40_transceiver.md R104; the tokens of 30_encoding.md R71, R72). -/
def tokenOf (p : Params) (b : Bool) : List Segment :=
  if b then [⟨.low, p.t1Low⟩, ⟨.high, p.t1High⟩]
  else [⟨.low, p.t0Low1⟩, ⟨.high, p.t0High1⟩, ⟨.low, p.t0Low2⟩, ⟨.high, p.t0High2⟩]

/-- A byte as drives: 8 tokens, bit 0 first, without a gap (30_encoding.md R75). -/
def byteTokens (p : Params) (b : Byte) : List Segment := (bitsOf b).flatMap (tokenOf p)

/-- SendBytes as drives: the bytes in list order, without a gap (40_transceiver.md R106). -/
def listTokens (p : Params) (bs : List Byte) : List Segment := bs.flatMap (byteTokens p)

/-- WakePulse as drives (40_transceiver.md R109; 30_encoding.md R74). -/
def wakeTokens (p : Params) : List Segment := [⟨.low, p.tWakeLow⟩, ⟨.high, p.tWakeSettle⟩]

/-- The bound R is no legal response size: `R < 4 or R > RX_CAPACITY` (60_exceptions.md R193). -/
def State.boundIllegal (s : State) : Bool := s.bound < 4 || s.params.val.rxCapacity < s.bound

/-- `L < 7 or L > TX_CAPACITY or R < 4 or R > RX_CAPACITY` (42_framer.md R157). -/
def State.exchangeIllegal (s : State) : Bool :=
  s.tx.frameLen < 7 || s.params.val.txCapacity < s.tx.frameLen || s.boundIllegal

/-- The received length byte is invalid: `L == 0xFF or L < 4 or L > R` (30_encoding.md R78). -/
def State.lengthIllegal (s : State) : Bool :=
  s.rx.frameLen == 0xFF || s.rx.frameLen < 4 || s.bound < s.rx.frameLen

/-- Whether a condition of the pseudocode holds. -/
def Cond.holds (c : Cond) (s : State) : Bool :=
  match c with
  | .argLenOverTx => s.params.val.txCapacity < s.len
  | .argLenOverRx => s.params.val.rxCapacity < s.len
  | .appendOverTx => s.params.val.txCapacity < s.len + 2
  | .rspSizeIllegal => s.boundIllegal
  | .rxBadLen => s.rx.checkFrame s.params.val.rxCapacity == .badLen
  | .txBadLen => s.tx.checkFrame s.params.val.txCapacity == .badLen
  | .exchangeIllegal => s.exchangeIllegal
  | .lineIs l => s.line == l
  | .waitTimedOut => s.seq.waited == .timeout
  | .trailingLeft => 1 ≤ s.trailingSamples
  | .bitIs b => s.seq.bit == b
  | .stIs r => s.seq.st == r
  | .rsIs r => s.seq.rs == r
  | .lengthIllegal => s.lengthIllegal
  | .hasRxPrefix => 0 < s.params.val.rxPrefix.length
  | .attemptShort => s.now - s.seq.t0 < s.params.val.tPoll
  | .frameMatches => s.seq.matched == .matched
  | .dataResponse => 4 < s.rx.frameLen
  | .statusIsComm => s.rx.read 1 == s.params.val.stComm
  | .escalated => s.seq.lastEscalation == .deviceCommStatus

/-- The verdict on a wake response, in the order of 42_framer.md R153: receive, length, ack byte,
signature. -/
def wakeVerdict (p : Params) (st : ResultCode) (rx : Memory) : ResultCode :=
  if st ≠ .success then st
  else if rx.frameLen ≠ 4 then .commFailure
  else if rx.read 1 ≠ p.wakeAck then .commFailure
  else if rx.read 2 ≠ p.wakeSigLo ∨ rx.read 3 ≠ p.wakeSigHi then .badChecksum
  else .success

/-- `StatusResult(b)` for b ≠ ST_COMM (42_framer.md R156). -/
def statusResult (p : Params) (b : Byte) : ResultCode :=
  if b = p.stParse then .deviceParseError
  else if b = p.stExec then .deviceExecutionError
  else if b = p.stSuccess then .success
  else .deviceOtherStatus

/-- The code an operation finishes with. -/
def Finish.result (f : Finish) (s : State) : ResultCode :=
  match f with
  | .code c => c
  | .fromSt => s.seq.st
  | .fromCheck => if s.seq.matched = .matched then .success else .badChecksum
  | .fromStatus => statusResult s.params.val (s.rx.read 1)

end Sys2Proof.Machine
end

