-- ==== Sys2Proof/Machine/Actions.lean ====
section
/-! DEFINITION. The steps of the pseudocode that take no time (40_transceiver.md R102: "No step
other than these primitives takes time"): what each writes. -/

namespace Sys2Proof.Machine

/-- Writes the sequencer. -/
def State.updSeq (f : Sequencer → Sequencer) (s : State) : State := { s with seq := f s.seq }

/-- A computed CRC goes to the internal register and to CRC_RESULT (10_state.md R31, R38). -/
def State.storeCrc (c : Word) (s : State) : State := { s with crc := c, crcResult := c }

/-- The two CRC bytes go to `TX[i]` and `TX[i+1]`, low byte first (41_crc.md R131). -/
def State.writeTxCrc (i : Nat) (c : Word) (s : State) : State :=
  (s.writeTx i (loByte c)).writeTx (i + 1) (hiByte c)

/-- `RX[i] <- RX[i] OR (1 << k)` (40_transceiver.md R108). -/
def State.orRxBit (i k : Nat) (s : State) : State := s.writeRx i (s.rx.read i ||| 1#8 <<< k)

/-- `for i in 0..n-1: RX[i] <- 0x00`; RX has RX_CAPACITY bytes. -/
def State.zeroRx (n : Nat) (s : State) : State :=
  { s with rx := s.rx.zeroFill (min n s.params.val.rxCapacity) }

/-- What a step without a duration does. -/
def Action.run (a : Action) (s : State) : State :=
  match a with
  | .release => s.setDrive .high
  | .driveArgLevel => s.setDrive (if s.argLevel then .high else .low)
  | .firstSample => s.updSeq fun q => { q with sampleIx := 0 }
  | .nextSample => s.updSeq fun q => { q with sampleIx := q.sampleIx + 1 }
  | .waitFound => s.updSeq fun q => { q with waited := .found q.sampleIx }
  | .waitTimeout => s.updSeq fun q => { q with waited := .timeout }
  | .bitIs b => s.updSeq fun q => { q with bit := b }
  | .callReceive off n => s.updSeq fun q => { q with off := off, count := n.value s }
  | .firstByte => s.updSeq fun q => { q with byteIx := 0 }
  | .nextByte => s.updSeq fun q => { q with byteIx := q.byteIx + 1 }
  | .firstBit => s.updSeq fun q => { q with bitIx := 0 }
  | .nextBit => s.updSeq fun q => { q with bitIx := q.bitIx + 1 }
  | .orBit => s.orRxBit (s.seq.off + s.seq.byteIx) s.seq.bitIx
  | .receiveFailed =>
    { s with
      rxCount := BitVec.ofNat 8 (s.seq.off + s.seq.byteIx)
      seq := { s.seq with st := if s.seq.off + s.seq.byteIx = 0 then .rxTimeout else .rxPartial } }
  | .receiveDone =>
    { s with
      rxCount := BitVec.ofNat 8 (s.seq.off + s.seq.count)
      seq := { s.seq with st := .success } }
  | .zeroRx n => s.zeroRx (n.value s)
  | .setSt c => s.updSeq fun q => { q with st := c }
  | .judgeWake => s.updSeq fun q => { q with st := wakeVerdict s.params.val q.st s.rx }
  | .setComm c => { s with commState := c }
  | .setSessionLost => { s with status := { s.status with sessionLost := true } }
  | .setRs r => s.updSeq fun q => { q with rs := r }
  | .crcCompute => s.storeCrc (crc16 (s.tx.prefixBytes s.len))
  | .crcAppend =>
    let c := crc16 (s.tx.prefixBytes s.len)
    (s.writeTxCrc s.len c).storeCrc c
  | .crcCheckRx =>
    (s.storeCrc s.rx.frameCrc).updSeq fun q => { q with matched := s.rx.checkFrame s.params.val.rxCapacity }
  | .crcCheckTx =>
    (s.storeCrc s.tx.frameCrc).updSeq fun q => { q with matched := s.tx.checkFrame s.params.val.txCapacity }
  | .appendFrameCrc => (s.writeTxCrc (s.tx.frameLen - 2) s.tx.frameCrc).storeCrc s.tx.frameCrc
  | .checkFrame =>
    { s with
      crc := if s.rx.checkFrame s.bound = .badLen then s.crc else s.rx.frameCrc
      seq := { s.seq with matched := s.rx.checkFrame s.bound } }
  | .firstSend => s.updSeq fun q => { q with s := 0 }
  | .nextSend => s.updSeq fun q => { q with s := q.s + 1, lastEscalation := .none }
  | .firstRecv => s.updSeq fun q => { q with r := 0 }
  | .nextRecv => s.updSeq fun q => { q with r := q.r + 1 }
  | .firstPoll => s.updSeq fun q => { q with p := 0 }
  | .nextPoll => s.updSeq fun q => { q with p := q.p + 1, t0 := s.now }
  | .escalate => s.updSeq fun q => { q with lastEscalation := .deviceCommStatus }

end Sys2Proof.Machine
end

