-- ==== Sys2Proof/Machine/Engine.lean ====
section
/-! DEFINITION. The engine: it runs pseudocode (Machine/Microcode.lean) from a position until the
operation ends, or until a host access falls due. A host access is never inside an engine step
(20_memory.md R58, 60_exceptions.md R193(e)): before each step the engine looks whether one is due,
and a Delay is cut where one falls due. -/

namespace Sys2Proof.Machine

/-- How a stretch of pseudocode ended. -/
inductive Res where
  /-- It ran to its end. -/
  | done (s : State)
  /-- `break`: the innermost loop ends. -/
  | brk (s : State)
  /-- `return`: the procedure ends. -/
  | ret (s : State)
  /-- `finish`: the operation has ended. -/
  | fin (s : State)
  /-- A host access is due: `rest` is what is still to run. -/
  | susp (rest : Stmt) (s : State)
deriving DecidableEq, Repr

/-- One engine step without a duration, or the suspension before it. -/
def atomic (here : Stmt) (f : State → State) (s : State) : Res :=
  if s.due then .susp here s else .done (f s.tick)

/-- `Delay(d)` (40_transceiver.md R102), cut where a host access falls due. -/
def waitUs (d : Nat) (s : State) : Res :=
  if s.due then .susp (.delay (.lit d)) s
  else match s.host with
    | [] => .done (s.pass d)
    | e :: _ =>
      if 0 < e.wait && e.wait < d then
        if (s.pass e.wait).due then .susp (.delay (.lit (d - e.wait))) (s.pass e.wait)
        else .done ((s.pass e.wait).tick.pass (d - e.wait))
      else .done (s.tick.pass d)

/-- Goes on after a stretch that ran to its end. -/
def Res.andThen (r : Res) (b : Stmt) (f : State → Res) : Res :=
  match r with
  | .done s => f s
  | .susp k s => .susp (.seq k b) s
  | r => r

/-- `Drive(level, len)` for each segment in order (40_transceiver.md R102): `drive_low` is set, then
`len` µs pass. -/
def driveAll : List Segment → State → Res
  | [], s => .done s
  | g :: gs, s =>
    if s.due then .susp (.drives (g :: gs)) s
    else (waitUs g.len (s.setDrive g.level)).andThen (.drives gs) (driveAll gs)

/-- What a finished iteration means for its loop: the loop goes on, or `break` has ended it. -/
def Res.looped (r : Res) (n : Nat) (body : Stmt) (f : State → Res) : Res :=
  match r with
  | .done s => f s
  | .brk s => .done s
  | .susp k s => .susp (.iter k n body) s
  | r => r

/-- `n` iterations of a loop whose body runs as `f` (00_scope.md R15). -/
def iterate (f : State → Res) (body : Stmt) : Nat → State → Res
  | 0, s => .done s
  | n + 1, s => (f s).looped n body (iterate f body n)

/-- What the end of a procedure's body means for its caller. -/
def Res.returned : Res → Res
  | .ret s => .done s
  | .susp k s => .susp (.proc k) s
  | r => r

/-- Runs pseudocode. -/
def eval : Stmt → State → Res
  | .skip, s => .done s
  | .act a, s => atomic (.act a) a.run s
  | .delay d, s => waitUs (d.value s) s
  | .drives gs, s => driveAll gs s
  | .send src, s => driveAll (listTokens s.params.val (src.bytes s)) s
  | .seq a b, s => (eval a s).andThen b (eval b)
  | .ite c a b, s => if c.holds s then eval a s else eval b s
  | .loop n b, s => iterate (eval b) b (n.value s) s
  | .iter c n b, s => (eval c s).looped n b (iterate (eval b) b n)
  | .proc b, s => (eval b s).returned
  | .brk, s => .brk s
  | .ret, s => .ret s
  | .finish f, s => if s.due then .susp (.finish f) s else .fin (s.tick.finish (f.result s))

/-- The state in which the engine leaves off. An operation's pseudocode always ends in `finish`
(00_scope.md R13); pseudocode that did not would leave the sequencer with nothing to do. -/
def Res.state : Res → State
  | .fin s => s
  | .susp k s => { s with seq := { s.seq with code := k } }
  | .done s => { s with seq := { s.seq with code := .skip } }
  | .brk s => { s with seq := { s.seq with code := .skip } }
  | .ret s => { s with seq := { s.seq with code := .skip } }

/-- The engine runs from the sequencer's position until the operation ends or a host access is due. -/
def State.runEngine (s : State) : State := (eval s.seq.code s).state

/-- A host write of an operation's code to CMD (10_state.md R23). While ACTIVE = 0 the operation starts
and runs; while ACTIVE = 1 the write is ignored and sets CMD_REJECTED; while reset is asserted it
is ignored (70_reset_and_hazards.md R210; log 15). -/
def command (code : Byte) (op : Option Instr) (prog : Stmt) (s : State) : State :=
  if s.resetIn then s
  else if s.status.active then s.rejectCmd
  else (s.accept code op prog).runEngine

end Sys2Proof.Machine
end

