-- ==== Sys2Proof/Machine/Crc.lean ====
section
/-! DEFINITION. The CRC operations CRC_COMPUTE, CRC_APPEND, CRC_CHECK_RX and CRC_CHECK_TX
(41_crc.md R133 to R136). -/

namespace Sys2Proof.Machine

/-- CRC_COMPUTE (41_crc.md R133). -/
def crcComputeCode : Stmt :=
  .block [
    .when .argLenOverTx (.finish (.code .parameterError)),
    .act .crcCompute,
    .finish (.code .success)]

/-- CRC_APPEND (41_crc.md R134). -/
def crcAppendCode : Stmt :=
  .block [
    .when .appendOverTx (.finish (.code .parameterError)),
    .act .crcAppend,
    .finish (.code .success)]

/-- CRC_CHECK_RX (41_crc.md R135). -/
def crcCheckRxCode : Stmt :=
  .block [
    .when .rxBadLen (.finish (.code .parameterError)),
    .act .crcCheckRx,
    .finish .fromCheck]

/-- CRC_CHECK_TX (41_crc.md R136). -/
def crcCheckTxCode : Stmt :=
  .block [
    .when .txBadLen (.finish (.code .parameterError)),
    .act .crcCheckTx,
    .finish .fromCheck]

/-- CRC_COMPUTE, CMD = 0x20 (41_crc.md R133). -/
def execCrcCompute (s : State) : Host.Outcome State Fault Refusal :=
  .next (command (encode .crcCompute) (some .crcCompute) crcComputeCode s)

/-- CRC_APPEND, CMD = 0x21 (41_crc.md R134). -/
def execCrcAppend (s : State) : Host.Outcome State Fault Refusal :=
  .next (command (encode .crcAppend) (some .crcAppend) crcAppendCode s)

/-- CRC_CHECK_RX, CMD = 0x22 (41_crc.md R135). -/
def execCrcCheckRx (s : State) : Host.Outcome State Fault Refusal :=
  .next (command (encode .crcCheckRx) (some .crcCheckRx) crcCheckRxCode s)

/-- CRC_CHECK_TX, CMD = 0x23 (41_crc.md R136). -/
def execCrcCheckTx (s : State) : Host.Outcome State Fault Refusal :=
  .next (command (encode .crcCheckTx) (some .crcCheckTx) crcCheckTxCode s)

end Sys2Proof.Machine
end

