-- ==== Sys2Proof/Machine/Transceiver.lean ====
section
/-! DEFINITION. The bit transceiver: the wire procedures (40_transceiver.md R103 to R109) and the
operations SET_SIGNAL, SEND_BYTES, RECEIVE_BYTES, WAKE_PULSE and SLEEP_BYTE (R110 to R114). -/

namespace Sys2Proof.Machine

/-- `WaitLevel(level, n)` (40_transceiver.md R103); `Delay(T_SAMPLE)` between samples. -/
def waitLevelCode (p : Params) (l : Level) (n : Qty) : Stmt :=
  .proc (.block [
    .act .firstSample,
    .loop n (.block [
      .when (.lineIs l) (.block [.act .waitFound, .ret]),
      .delay (.lit p.tSample),
      .act .nextSample]),
    .act .waitTimeout])

/-- `ReceiveBit()` (40_transceiver.md R107). -/
def receiveBitCode (p : Params) : Stmt :=
  .proc (.block [
    waitLevelCode p .low (.lit p.nStart),
    .when .waitTimedOut (.block [.act (.bitIs .timeout), .ret]),
    .delay (.lit p.tSample),
    waitLevelCode p .high (.lit p.nRise),
    .when .waitTimedOut (.block [.act (.bitIs .timeout), .ret]),
    .delay (.lit p.tSample),
    waitLevelCode p .low (.lit p.nZero),
    .when .waitTimedOut (.block [.act (.bitIs .one), .ret]),
    .delay (.lit p.tSample),
    .when .trailingLeft (waitLevelCode p .high .trailing),
    .act (.bitIs .zero)])

/-- The body of ReceiveBytes for one bit (40_transceiver.md R108). -/
def receiveOneBitCode (p : Params) : Stmt :=
  .block [
    receiveBitCode p,
    .when (.bitIs .timeout) (.block [.act .receiveFailed, .ret]),
    .when (.bitIs .one) (.act .orBit),
    .act .nextBit]

/-- `ReceiveBytes(off, count)` (40_transceiver.md R108). Its result is `st`. -/
def receiveBytesCode (p : Params) (off : Nat) (count : Qty) : Stmt :=
  .proc (.block [
    .act (.callReceive off count),
    .act .release,
    .act .firstByte,
    .loop .recvCount (.block [
      .act .firstBit,
      .loop (.lit 8) (receiveOneBitCode p),
      .act .nextByte]),
    .act .receiveDone])

/-- SET_SIGNAL (40_transceiver.md R110). -/
def setSignalCode : Stmt :=
  .block [.act .driveArgLevel, .finish (.code .success)]

/-- SEND_BYTES (40_transceiver.md R111). -/
def sendBytesCode : Stmt :=
  .block [
    .when .argLenOverTx (.finish (.code .parameterError)),
    .send .txArgLen,
    .finish (.code .success)]

/-- RECEIVE_BYTES (40_transceiver.md R112). -/
def receiveBytesOpCode (p : Params) : Stmt :=
  .block [
    .when .argLenOverRx (.finish (.code .parameterError)),
    .act (.zeroRx .argLen),
    receiveBytesCode p 0 .argLen,
    .finish .fromSt]

/-- WAKE_PULSE (40_transceiver.md R113). -/
def wakePulseCode (p : Params) : Stmt :=
  .block [.drives (wakeTokens p), .finish (.code .success)]

/-- SLEEP_BYTE (40_transceiver.md R114). -/
def sleepByteCode : Stmt :=
  .block [
    .send .sleepByte,
    .act (.setComm .unknownAsleep),
    .finish (.code .success)]

/-- SET_SIGNAL, CMD = 0x10 (40_transceiver.md R110). -/
def execSetSignal (s : State) : Host.Outcome State Fault Refusal :=
  .next (command (encode .setSignal) (some .setSignal) setSignalCode s)

/-- SEND_BYTES, CMD = 0x11 (40_transceiver.md R111). -/
def execSendBytes (s : State) : Host.Outcome State Fault Refusal :=
  .next (command (encode .sendBytes) (some .sendBytes) sendBytesCode s)

/-- RECEIVE_BYTES, CMD = 0x12 (40_transceiver.md R112). -/
def execReceiveBytes (s : State) : Host.Outcome State Fault Refusal :=
  .next (command (encode .receiveBytes) (some .receiveBytes) (receiveBytesOpCode s.params.val) s)

/-- WAKE_PULSE, CMD = 0x13 (40_transceiver.md R113). -/
def execWakePulse (s : State) : Host.Outcome State Fault Refusal :=
  .next (command (encode .wakePulse) (some .wakePulse) (wakePulseCode s.params.val) s)

/-- SLEEP_BYTE, CMD = 0x14 (40_transceiver.md R114). -/
def execSleepByte (s : State) : Host.Outcome State Fault Refusal :=
  .next (command (encode .sleepByte) (some .sleepByte) sleepByteCode s)

end Sys2Proof.Machine
end

