-- ==== Sys2Proof/Machine/Framer.lean ====
section
/-! DEFINITION. The framer, the deframer and the resynchronisation state machine: the procedures of
42_framer.md R151 to R157 and the operations RECEIVE_FRAME, WAKEUP, RESYNC and SEND_AND_RECEIVE
(R160 to R163). -/

namespace Sys2Proof.Machine

/-- `if len(RX_PREFIX) > 0: SendBytes(RX_PREFIX)` (42_framer.md R152, R153). -/
def sendRxPrefixCode : Stmt := .when .hasRxPrefix (.send .rxPrefix)

/-- `TransmitFrame(L)` (42_framer.md R151): it always returns SUCCESS. -/
def transmitFrameCode : Stmt := .block [.send .commandFrame, .act (.setSt .success)]

/-- `ReceiveFrame(R)` (42_framer.md R152). Its result is `st`. -/
def receiveFrameCode (p : Params) : Stmt :=
  .proc (.block [
    .act (.zeroRx .rspSize),
    sendRxPrefixCode,
    receiveBytesCode p 0 (.lit 1),
    .ite (.stIs .success) .skip .ret,
    .when .lengthIllegal (.block [.act (.setSt .invalidFrameSize), .ret]),
    receiveBytesCode p 1 .bytesLeft])

/-- `Wakeup()` (42_framer.md R153). Its result `w` is `st`. -/
def wakeupCode (p : Params) : Stmt :=
  .block [
    .drives (wakeTokens p),
    .act (.zeroRx (.lit 4)),
    sendRxPrefixCode,
    receiveBytesCode p 0 (.lit 4),
    .act .judgeWake,
    .ite (.stIs .success)
      (.act (.setComm .awakeSynced))
      (.block [.act (.setComm .unknownAsleep), .delay (.lit p.tMaxExecDelay)])]

/-- `Resync(R)` (42_framer.md R154). Its result is `rs`. -/
def resyncCode (p : Params) : Stmt :=
  .proc (.block [
    .delay (.lit p.tSyncTimeout),
    receiveFrameCode p,
    .when (.stIs .success) (.block [.act (.setComm .awakeSynced), .act (.setRs .synced), .ret]),
    .send .sleepByte,
    .act (.setComm .unknownAsleep),
    wakeupCode p,
    .when (.stIs .success) (.block [.act .setSessionLost, .act (.setRs .rewoken), .ret]),
    .act (.setRs .unreachable)])

/-- `PollReceive(R, T)` (42_framer.md R155). Its result is `st`. -/
def pollReceiveCode (p : Params) : Stmt :=
  .proc (.block [
    .act .firstPoll,
    .loop .pollAttempts (.block [
      .act .nextPoll,
      receiveFrameCode p,
      .ite (.stIs .rxTimeout) .skip .ret,
      .when .attemptShort (.delay .pollPad)]),
    .act (.setSt .rxTimeout)])

/-- `if Resync(R) == UNREACHABLE: finish(FATAL_COMM_FAILURE)` (42_framer.md R157). -/
def resyncOrDieCode (p : Params) : Stmt :=
  .block [resyncCode p, .when (.rsIs .unreachable) (.finish (.code .fatalCommFailure))]

/-- What the inner loop of SendAndReceive does with a frame whose length and CRC are good
(42_framer.md R157, steps 5 and 6). -/
def goodFrameCode : Stmt :=
  .block [
    .act (.setComm .awakeSynced),
    .when .dataResponse (.finish (.code .success)),
    .when .statusIsComm (.block [.act .escalate, .brk]),
    .finish .fromStatus]

/-- One iteration of the inner (receive-retry) loop of SendAndReceive (42_framer.md R157). -/
def receiveRetryCode (p : Params) : Stmt :=
  .block [
    .act .nextRecv,
    pollReceiveCode p,
    .when (.stIs .rxTimeout) (.block [resyncOrDieCode p, .brk]),
    .when (.stIs .success) (.block [.act .checkFrame, .when .frameMatches goodFrameCode]),
    resyncOrDieCode p,
    .when (.rsIs .rewoken) .brk]

/-- One iteration of the outer (send-retry) loop of SendAndReceive (42_framer.md R157). The branch of
a failed transmission is the spec's own, and is never taken (R151, 90_conflicts.md C2). -/
def sendRetryCode (p : Params) : Stmt :=
  .block [
    .act .nextSend,
    transmitFrameCode,
    .ite (.stIs .success)
      (.block [
        .act (.setComm .deviceBusy),
        .delay .execDelay,
        .act .firstRecv,
        .loop (.lit p.nRecvAttempts) (receiveRetryCode p)])
      (resyncOrDieCode p)]

/-- RECEIVE_FRAME (42_framer.md R160). -/
def receiveFrameOpCode (p : Params) : Stmt :=
  .block [
    .when .rspSizeIllegal (.finish (.code .parameterError)),
    receiveFrameCode p,
    .finish .fromSt]

/-- WAKEUP (42_framer.md R161). -/
def wakeupOpCode (p : Params) : Stmt := .block [wakeupCode p, .finish .fromSt]

/-- RESYNC (42_framer.md R162). -/
def resyncOpCode (p : Params) : Stmt :=
  .block [
    .when .rspSizeIllegal (.finish (.code .parameterError)),
    resyncCode p,
    .when (.rsIs .synced) (.finish (.code .success)),
    .when (.rsIs .rewoken) (.finish (.code .resyncedWithWakeup)),
    .finish (.code .fatalCommFailure)]

/-- SEND_AND_RECEIVE (42_framer.md R157, R163). -/
def sendAndReceiveCode (p : Params) : Stmt :=
  .block [
    .when .exchangeIllegal (.finish (.code .parameterError)),
    .act .appendFrameCrc,
    .act .firstSend,
    .loop (.lit p.nSendAttempts) (sendRetryCode p),
    .when .escalated (.finish (.code .deviceCommStatus)),
    .finish (.code .fatalCommFailure)]

/-- RECEIVE_FRAME, CMD = 0x30 (42_framer.md R160). -/
def execReceiveFrame (s : State) : Host.Outcome State Fault Refusal :=
  .next (command (encode .receiveFrame) (some .receiveFrame) (receiveFrameOpCode s.params.val) s)

/-- WAKEUP, CMD = 0x31 (42_framer.md R161). -/
def execWakeup (s : State) : Host.Outcome State Fault Refusal :=
  .next (command (encode .wakeup) (some .wakeup) (wakeupOpCode s.params.val) s)

/-- RESYNC, CMD = 0x32 (42_framer.md R162). -/
def execResync (s : State) : Host.Outcome State Fault Refusal :=
  .next (command (encode .resync) (some .resync) (resyncOpCode s.params.val) s)

/-- SEND_AND_RECEIVE, CMD = 0x33 (42_framer.md R163). -/
def execSendAndReceive (s : State) : Host.Outcome State Fault Refusal :=
  .next (command (encode .sendAndReceive) (some .sendAndReceive) (sendAndReceiveCode s.params.val) s)

end Sys2Proof.Machine
end

