-- ==== Sys2Proof/Machine/Dispatch.lean ====
section
/-! DEFINITION. The meaning of each operation of 30_encoding.md R80: what a host write of its code to
CMD does, run until `finish` or until the next host access is due. -/

namespace Sys2Proof.Machine

def exec (i : Instr) (s : State) : Host.Outcome State Fault Refusal :=
  match i with
  | .setSignal => Sys2Proof.Machine.execSetSignal s
  | .sendBytes => Sys2Proof.Machine.execSendBytes s
  | .receiveBytes => Sys2Proof.Machine.execReceiveBytes s
  | .wakePulse => Sys2Proof.Machine.execWakePulse s
  | .sleepByte => Sys2Proof.Machine.execSleepByte s
  | .crcCompute => Sys2Proof.Machine.execCrcCompute s
  | .crcAppend => Sys2Proof.Machine.execCrcAppend s
  | .crcCheckRx => Sys2Proof.Machine.execCrcCheckRx s
  | .crcCheckTx => Sys2Proof.Machine.execCrcCheckTx s
  | .receiveFrame => Sys2Proof.Machine.execReceiveFrame s
  | .wakeup => Sys2Proof.Machine.execWakeup s
  | .resync => Sys2Proof.Machine.execResync s
  | .sendAndReceive => Sys2Proof.Machine.execSendAndReceive s

end Sys2Proof.Machine
end

