-- ==== Sys2Proof/Machine/HostBus.lean ====
section
/-! DEFINITION. The host's side of the register space: reads, writes other than to CMD, unassigned
CMD codes, and the passing of time while the engine is idle (20_memory.md R50 to R61). -/

namespace Sys2Proof.Machine

/-- An address that is reserved (20_memory.md R51 to R53): no register, and no buffer byte below the
capacity. -/
def State.reserved (s : State) (a : Addr) : Bool :=
  let n := a.toNat
  if n < 0x00F then false
  else if n < 0x100 then true
  else if n < 0x200 then !(n - 0x100 < s.params.val.txCapacity)
  else if n < 0x300 then !(n - 0x200 < s.params.val.rxCapacity)
  else true

/-- The byte stored at an address (20_memory.md R51, R54); 0x00 at a reserved one (R52). -/
def State.stored (s : State) (a : Addr) : Byte :=
  if s.reserved a then 0
  else match a.toNat with
    | 0x000 => s.cmd
    | 0x001 => s.status.toByte
    | 0x002 => s.result.toByte
    | 0x003 => s.argLen
    | 0x004 => bitAt 0 s.argLevel
    | 0x005 => s.argRspSize
    | 0x006 => loByte s.argExecDelay
    | 0x007 => hiByte s.argExecDelay
    | 0x008 => loByte s.argExecTimeout
    | 0x009 => hiByte s.argExecTimeout
    | 0x00A => loByte s.crcResult
    | 0x00B => hiByte s.crcResult
    | 0x00C => s.rxCount
    | 0x00D => s.commState.toByte
    | 0x00E => s.wireByte
    | n => if n < 0x200 then s.tx.read (n - 0x100) else s.rx.read (n - 0x200)

/-- A read of this address while ACTIVE = 1 returns an unspecified byte (20_memory.md R61): it is
neither STATUS nor WIRE nor reserved. -/
def State.unspecified (s : State) (a : Addr) : Bool :=
  s.status.active && a != 0x001 && a != 0x00E && !s.reserved a

/-- A host read (20_memory.md R59, R61). The byte read goes to `reads`; nothing else of the block
changes. An unspecified byte is a free value (log 4). -/
def State.hostRead (a : Addr) (s : State) : State :=
  if s.unspecified a then
    { s with reads := Config.freeByte s.freeCount :: s.reads, freeCount := s.freeCount + 1 }
  else { s with reads := s.stored a :: s.reads }

/-- A host write to any address but CMD (20_memory.md R51 to R54, R59, R60): ignored while ACTIVE = 1
and while reset is asserted (70_reset_and_hazards.md R210); otherwise an RW register or TX byte is
stored, and a write to a read-only or reserved address is ignored. -/
def State.hostWrite (a : Addr) (v : Byte) (s : State) : State :=
  if s.status.active || s.resetIn then s
  else match a.toNat with
    | 0x003 => { s with argLen := v }
    | 0x004 => { s with argLevel := v.getLsbD 0 }
    | 0x005 => { s with argRspSize := v }
    | 0x006 => { s with argExecDelay := withLo s.argExecDelay v }
    | 0x007 => { s with argExecDelay := withHi s.argExecDelay v }
    | 0x008 => { s with argExecTimeout := withLo s.argExecTimeout v }
    | 0x009 => { s with argExecTimeout := withHi s.argExecTimeout v }
    | n => if 0x100 ≤ n && n < 0x200 then s.writeTx (n - 0x100) v else s

/-- The next poll of a `wait` whose last one read DONE = 0. The engine goes on between two polls: at a
pace of 0 µs, by one step at least (30_encoding.md R89; DESIGN CHOICE, log 11). -/
def nextPoll (p : Pace) : HostEvent := ⟨p.us, if p.us = 0 then max 1 p.steps else p.steps, .waitDone p⟩

/-- One poll of a `wait` (30_encoding.md R89): `rd 0x001`, to be repeated while bit 1 (DONE) of the value
read is 0. -/
def State.poll (p : Pace) (s : State) : State :=
  let t := s.hostRead 0x001
  if s.status.done then t else { t with host := nextPoll p :: t.host }

/-- A write of an unassigned code to CMD (30_encoding.md R84): it is accepted, does nothing, and
finishes at once with UNKNOWN_OPERATION. -/
def State.unassigned (w : Byte) (s : State) : State :=
  command w none (.finish (.code .unknownOperation)) s

/-- The engine is idle, or held in reset, and no host access is due: time passes until one is
(log 12). -/
def State.idle (s : State) : State :=
  match s.host with
  | [] => s
  | e :: rest =>
    let t := if s.resetIn then s.passInReset e.wait else s.pass e.wait
    { t with host := { e with wait := 0, steps := 0 } :: rest }

/-- No host access is due: the engine runs, if an operation is running. -/
def State.advance (s : State) : State :=
  if s.status.active && !s.resetIn then s.runEngine else s.idle

end Sys2Proof.Machine
end

