-- ==== Sys2Proof/Machine/Step.lean ====
section
/-! DEFINITION. One step of the machine: the host's next access if it is due, otherwise the engine
runs, otherwise time passes (00_scope.md R17; log 3, log 12). -/

namespace Sys2Proof.Machine

/-- A host write to CMD (10_state.md R23): the operation the byte names, or an unassigned code
(30_encoding.md R84). -/
def writeCmd (w : Byte) (s : State) : Host.Outcome State Fault Refusal :=
  match decode w with
  | some i => exec i s
  | none => .next (s.unassigned w)

/-- A host access takes place. -/
def perform (a : HostAccess) (s : State) : Host.Outcome State Fault Refusal :=
  match a with
  | .bus (.read a) => .next (s.hostRead a)
  | .bus (.write a v) => if a = 0x000 then writeCmd v s else .next (s.hostWrite a v)
  | .waitDone p => .next (s.poll p)
  | .resetAssert => .next s.assertReset
  | .resetRelease => .next s.releaseReset

/-- One step. -/
def step (s : State) : Host.Outcome State Fault Refusal :=
  match s.host with
  | [] => .next s.advance
  | e :: rest => if s.due then perform e.access { s with host := rest } else .next s.advance

/-- `s` with a host write of the opcode-table word to CMD as the next access, and the engine ready to
accept it: idle and not held in reset. The machine fetches nothing (10_state.md R21); an operation
comes to run by a host write to CMD (log 9). -/
def State.withFetchWord (s : State) (nbits w : Nat) : State :=
  { s with
    status := { s.status with active := false }
    seq := if s.status.active then Sequencer.idle else s.seq
    resetIn := false
    host := ⟨0, 0, .bus (.write 0x000 (tableByte nbits w))⟩ :: s.host }

end Sys2Proof.Machine
end

