-- ==== Sys2Proof/Machine/HostProgram.lean ====
section
/-! DEFINITION. Host programs: the expansion of the host syntax and its pseudo-instructions into host
accesses (30_encoding.md R87, R89). -/

namespace Sys2Proof.Machine

/-- A host access 0 µs and 0 engine steps after the one before it. The spec fixes no time and no engine
step between the lines of a program, nor between the accesses of one line; the model puts none
(DESIGN CHOICE, log 18). -/
def now (a : HostAccess) : HostEvent := ⟨0, 0, a⟩

/-- `wr a, v`. A host address has 10 bits (30_encoding.md R87), and the spec does not say what an
expansion that passes 0x3FF means; the model takes the address modulo 2^10 (DESIGN CHOICE, log 17). -/
def wr (a : Nat) (v : Byte) : HostEvent := now (.bus (.write (BitVec.ofNat 10 a) v))

/-- `rd a`; an address past 0x3FF is taken modulo 2^10 (DESIGN CHOICE, log 17). -/
def rd (a : Nat) : HostEvent := now (.bus (.read (BitVec.ofNat 10 a)))

/-- The writes `wr a, b0`, `wr a+1, b1`, …; an address past 0x3FF is taken modulo 2^10 (DESIGN CHOICE,
log 17). -/
def wrList : Nat → List Byte → List HostEvent
  | _, [] => []
  | a, b :: bs => wr a b :: wrList (a + 1) bs

/-- The host accesses a line stands for (30_encoding.md R87, R89), for a host that polls at the pace `p`
(log 11). Where the addresses of wr16, ldtx or rdrx pass 0x3FF they are taken modulo 2^10, so that
`wr16 0x3FF, V` writes its high byte to CMD (DESIGN CHOICE, log 17). Every access stands 0 µs and 0
engine steps after the one before it, so that the first read of a `wait` after an `op` comes before the
operation's first step and reads DONE = 0 (DESIGN CHOICE, log 18). -/
def HostLine.expand (p : Pace) : HostLine → List HostEvent
  | .wr a v => [now (.bus (.write a v))]
  | .rd a => [now (.bus (.read a))]
  | .op i => [wr 0x000 (encode i)]
  | .wait => [now (.waitDone p)]
  | .wr16 a v => wrList a.toNat [v.extractLsb' 0 8, v.extractLsb' 8 8]
  | .ldtx ix bs => wrList (0x100 + ix) bs
  | .rdrx ix n => (List.range n).map fun k => rd (0x200 + ix + k)

/-- The host accesses of a program, line by line, for a host that polls at the pace `p`, with nothing
between a line and the next (DESIGN CHOICE, log 18). -/
def expandProgram (p : Pace) (ls : List HostLine) : List HostEvent := ls.flatMap (HostLine.expand p)

end Sys2Proof.Machine
end

