-- ==== Sys2Proof/Safety.lean ====
section
/-! DEFINITION. What counts as a good state and a good run, in the terms the statements use: the
invariant of every state, when an operation can be started and runs undisturbed, and the
durations and bounds of 70_reset_and_hazards.md R223 and R224. -/

namespace Sys2Proof.Machine

/-- An operation can be started, and no host access is to come: ACTIVE = 0, reset released. -/
def Ready (s : State) : Prop :=
  s.status.active = false ∧ s.resetIn = false ∧ s.host = []

/-- A waveform as `trace` keeps it: no empty stretch, and two neighbours differ in level. -/
def canonicalTrace : List Segment → Bool
  | [] => true
  | [g] => 0 < g.len
  | g :: h :: rest => 0 < g.len && g.level != h.level && canonicalTrace (h :: rest)

/-- The length of a waveform in µs. -/
def traceLen (tr : List Segment) : Nat := (tr.map (·.len)).sum

/-- The invariant of the machine. -/
structure Inv (s : State) : Prop where
  /-- TX and RX are in canonical form. -/
  txWf : s.tx.wf = true
  rxWf : s.rx.wf = true
  /-- TX has TX_CAPACITY bytes and RX has RX_CAPACITY bytes (10_state.md R36, R37). -/
  txWithin : s.tx.within s.params.val.txCapacity = true
  rxWithin : s.rx.within s.params.val.rxCapacity = true
  /-- ACTIVE = 1 and DONE = 1 never hold at once (10_state.md R24). -/
  notBoth : ¬ (s.status.active = true ∧ s.status.done = true)
  /-- Before the first accepted CMD write, SESSION_LOST and CMD_REJECTED are 0 (10_state.md R24). -/
  fresh : s.status.active = false → s.status.done = false →
    s.status.sessionLost = false ∧ s.status.cmdRejected = false
  /-- The sequencer is idle while no operation runs (10_state.md R42; log 6). -/
  idleSeq : s.status.active = false → s.seq = Sequencer.idle
  /-- The waveform is canonical and covers the time since `now` was 0 (log 7). -/
  traceCanonical : canonicalTrace s.trace = true
  traceCovers : traceLen s.trace = s.now
  /-- While reset is asserted, everything has its reset value (70_reset_and_hazards.md R210). -/
  inReset : s.resetIn = true → s =
    { State.reset with
      params := s.params
      dev := s.dev
      host := s.host
      resetIn := true
      reads := s.reads
      freeCount := s.freeCount }

/-- The number of 1 bits of a byte. -/
def popcount (b : Byte) : Nat := (bitsOf b).countP id

/-- DT1, the duration of a `1` token (70_reset_and_hazards.md R223). -/
def dt1 (p : Params) : Nat := p.t1Low + p.t1High

/-- DT0, the duration of a `0` token (70_reset_and_hazards.md R223). -/
def dt0 (p : Params) : Nat := p.t0Low1 + p.t0High1 + p.t0Low2 + p.t0High2

/-- DB(b), the duration of a byte (70_reset_and_hazards.md R223). -/
def byteDuration (p : Params) (b : Byte) : Nat :=
  popcount b * dt1 p + (8 - popcount b) * dt0 p

/-- DL(bs), the duration of a byte list (70_reset_and_hazards.md R223). -/
def listDuration (p : Params) (bs : List Byte) : Nat := (bs.map (byteDuration p)).sum

/-- BB, the bound of ReceiveBit (70_reset_and_hazards.md R224). -/
def bitBound (p : Params) : Nat := (p.nStart + p.nRise + p.nZero) * p.tSample

/-- DF(R), the bound of ReceiveFrame (70_reset_and_hazards.md R224). -/
def frameBound (p : Params) (r : Nat) : Nat := listDuration p p.rxPrefix + 8 * r * bitBound p

/-- DW, the bound of Wakeup (70_reset_and_hazards.md R224). -/
def wakeBound (p : Params) : Nat :=
  p.tWakeLow + p.tWakeSettle + listDuration p p.rxPrefix + 32 * bitBound p + p.tMaxExecDelay

/-- DR(R), the bound of Resync (70_reset_and_hazards.md R224). -/
def resyncBound (p : Params) (r : Nat) : Nat :=
  p.tSyncTimeout + frameBound p r + byteDuration p p.sleepByte + wakeBound p

/-- The bound of SEND_AND_RECEIVE (70_reset_and_hazards.md R224): `cmd` is the command frame as sent. -/
def exchangeBound (p : Params) (cmd : List Byte) (execDelayUs nPoll r : Nat) : Nat :=
  p.nSendAttempts * (listDuration p (p.cmdPrefix ++ cmd) + execDelayUs +
    p.nRecvAttempts * (nPoll * max p.tPoll (frameBound p r) + resyncBound p r))

/-- The operation finishes with PARAMETER_ERROR: the table of 60_exceptions.md R193(a). -/
def illegal (i : Instr) (s : State) : Bool :=
  match i with
  | .setSignal | .wakePulse | .sleepByte | .wakeup => false
  | .sendBytes | .crcCompute => s.params.val.txCapacity < s.argLen.toNat
  | .receiveBytes => s.params.val.rxCapacity < s.argLen.toNat
  | .crcAppend => s.params.val.txCapacity < s.argLen.toNat + 2
  | .crcCheckRx => (s.rx.read 0).toNat < 3 || s.params.val.rxCapacity < (s.rx.read 0).toNat
  | .crcCheckTx => (s.tx.read 0).toNat < 3 || s.params.val.txCapacity < (s.tx.read 0).toNat
  | .receiveFrame | .resync => s.argRspSize.toNat < 4 || s.params.val.rxCapacity < s.argRspSize.toNat
  | .sendAndReceive =>
    (s.tx.read 0).toNat < 7 || s.params.val.txCapacity < (s.tx.read 0).toNat ||
    s.argRspSize.toNat < 4 || s.params.val.rxCapacity < s.argRspSize.toNat

/-- The results an operation can finish with: the column "finished with by" of 60_exceptions.md R191. -/
def allowedResults : Instr → List ResultCode
  | .setSignal => [.success]
  | .sendBytes => [.success, .parameterError]
  | .receiveBytes => [.success, .parameterError, .rxTimeout, .rxPartial]
  | .wakePulse => [.success]
  | .sleepByte => [.success]
  | .crcCompute => [.success, .parameterError]
  | .crcAppend => [.success, .parameterError]
  | .crcCheckRx => [.success, .parameterError, .badChecksum]
  | .crcCheckTx => [.success, .parameterError, .badChecksum]
  | .receiveFrame => [.success, .parameterError, .rxTimeout, .rxPartial, .invalidFrameSize]
  | .wakeup => [.success, .rxTimeout, .rxPartial, .badChecksum, .commFailure]
  | .resync => [.success, .parameterError, .resyncedWithWakeup, .fatalCommFailure]
  | .sendAndReceive =>
    [.success, .parameterError, .deviceCommStatus, .deviceParseError, .deviceExecutionError,
      .deviceOtherStatus, .fatalCommFailure]

/-- No RX byte from this index on is written (20_memory.md R68). -/
def rxExtent (i : Instr) (s : State) : Nat :=
  match i with
  | .setSignal | .sendBytes | .wakePulse | .sleepByte
  | .crcCompute | .crcAppend | .crcCheckRx | .crcCheckTx => 0
  | .receiveBytes => s.argLen.toNat
  | .wakeup => 4
  | .receiveFrame | .resync | .sendAndReceive => s.argRspSize.toNat

/-- The first of the two TX bytes that take a CRC, if the operation writes TX (20_memory.md R68). -/
def txCrcIndex (i : Instr) (s : State) : Option Nat :=
  match i with
  | .crcAppend => some s.argLen.toNat
  | .sendAndReceive => some ((s.tx.read 0).toNat - 2)
  | .setSignal | .sendBytes | .receiveBytes | .wakePulse | .sleepByte
  | .crcCompute | .crcCheckRx | .crcCheckTx | .receiveFrame | .wakeup | .resync => none

/-- The operation writes CRC_RESULT (20_memory.md R68). -/
def writesCrcResult : Instr → Bool
  | .crcCompute | .crcAppend | .crcCheckRx | .crcCheckTx | .sendAndReceive => true
  | .setSignal | .sendBytes | .receiveBytes | .wakePulse | .sleepByte
  | .receiveFrame | .wakeup | .resync => false

/-- The operation receives: it writes RX and RX_COUNT (20_memory.md R68). -/
def receives : Instr → Bool
  | .receiveBytes | .receiveFrame | .wakeup | .resync | .sendAndReceive => true
  | .setSignal | .sendBytes | .wakePulse | .sleepByte
  | .crcCompute | .crcAppend | .crcCheckRx | .crcCheckTx => false

/-- The operation writes COMM_STATE (20_memory.md R68, 42_framer.md R150). -/
def writesCommState : Instr → Bool
  | .sleepByte | .wakeup | .resync | .sendAndReceive => true
  | .setSignal | .sendBytes | .receiveBytes | .wakePulse
  | .crcCompute | .crcAppend | .crcCheckRx | .crcCheckTx | .receiveFrame => false

/-- The operation can set SESSION_LOST (42_framer.md R159). -/
def canLoseSession : Instr → Bool
  | .resync | .sendAndReceive => true
  | .setSignal | .sendBytes | .receiveBytes | .wakePulse | .sleepByte
  | .crcCompute | .crcAppend | .crcCheckRx | .crcCheckTx | .receiveFrame | .wakeup => false

/-- The operation can reach the wire: no CRC operation does (40_transceiver.md R105). -/
def movesWire : Instr → Bool
  | .crcCompute | .crcAppend | .crcCheckRx | .crcCheckTx => false
  | .setSignal | .sendBytes | .receiveBytes | .wakePulse | .sleepByte
  | .receiveFrame | .wakeup | .resync | .sendAndReceive => true

/-- A state as far as the engine sees it: without the host's accesses to come, the host's reads, and
CMD_REJECTED. -/
def observed (s : State) : State :=
  { s with
    host := []
    reads := []
    freeCount := 0
    status := { s.status with cmdRejected := false } }

/-- What becomes of a state when the host does nothing more: a running operation runs to its end. -/
def fate (s : State) : State :=
  if s.status.active then (observed s).runEngine else observed s

/-- No access to come asserts the reset input. -/
def NoReset (s : State) : Prop := ∀ e ∈ s.host, e.access ≠ .resetAssert

end Sys2Proof.Machine
end

