-- ==== Sys2Proof/Reference.lean ====
section
/-! DEFINITION. The spec's procedures once more, as plain functions of a state in which no host access
is pending: no sequencer, no suspension, results returned as values. The machine does not use them;
the statements compare what the machine does with them. -/

namespace Sys2Proof.Reference

open Sys2Proof.Machine

/-- `Drive` for each segment in order (40_transceiver.md R102). -/
def drive : List Segment → State → State
  | [], s => s
  | g :: gs, s => drive gs ((s.setDrive g.level).pass g.len)

/-- `SendBytes(bs)` (40_transceiver.md R106). -/
def sendBytes (bs : List Byte) (s : State) : State := drive (listTokens s.params.val bs) s

/-- `WaitLevel(level, n)` from sample `k` on (40_transceiver.md R103). -/
def waitLevel (l : Level) : Nat → Nat → State → WaitOutcome × State
  | 0, _, s => (.timeout, s)
  | n + 1, k, s =>
    if s.line = l then (.found k, s) else waitLevel l n (k + 1) (s.pass s.params.val.tSample)

/-- `ReceiveBit()` (40_transceiver.md R107). -/
def receiveBit (s : State) : BitOutcome × State :=
  let p := s.params.val
  match waitLevel .low p.nStart 0 s with
  | (.timeout, s1) => (.timeout, s1)
  | (.found _, s1) =>
    match waitLevel .high p.nRise 0 (s1.pass p.tSample) with
    | (.timeout, s2) => (.timeout, s2)
    | (.found _, s2) =>
      match waitLevel .low p.nZero 0 (s2.pass p.tSample) with
      | (.timeout, s3) => (.one, s3)
      | (.found k, s3) => (.zero, (waitLevel .high (p.nZero - k - 1) 0 (s3.pass p.tSample)).2)

/-- The bits k, k+1, … of one byte of ReceiveBytes, into `RX[ix]` (40_transceiver.md R108): whether
all of them came. -/
def receiveBits (ix : Nat) : Nat → Nat → State → Bool × State
  | 0, _, s => (true, s)
  | n + 1, k, s =>
    match receiveBit s with
    | (.timeout, s1) => (false, s1)
    | (.one, s1) => receiveBits ix n (k + 1) (s1.orRxBit ix k)
    | (.zero, s1) => receiveBits ix n (k + 1) s1

/-- The bytes i, i+1, … of ReceiveBytes (40_transceiver.md R108). -/
def receiveFrom (off : Nat) : Nat → Nat → State → ResultCode × State
  | 0, i, s => (.success, { s with rxCount := BitVec.ofNat 8 (off + i) })
  | n + 1, i, s =>
    match receiveBits (off + i) 8 0 s with
    | (false, s1) =>
      (if off + i = 0 then .rxTimeout else .rxPartial, { s1 with rxCount := BitVec.ofNat 8 (off + i) })
    | (true, s1) => receiveFrom off n (i + 1) s1

/-- `ReceiveBytes(off, count)` (40_transceiver.md R108). -/
def receiveBytes (off count : Nat) (s : State) : ResultCode × State :=
  receiveFrom off count 0 (s.setDrive .high)

/-- `ReceiveFrame(R)` with `R = ARG_RSP_SIZE` (42_framer.md R152). -/
def receiveFrame (s : State) : ResultCode × State :=
  match receiveBytes 0 1 (sendBytes s.params.val.rxPrefix (s.zeroRx s.bound)) with
  | (.success, s1) =>
    if s1.lengthIllegal then (.invalidFrameSize, s1) else receiveBytes 1 (s1.rx.frameLen - 1) s1
  | r => r

/-- `COMM_STATE <- c` -/
def setComm (c : CommState) (s : State) : State := { s with commState := c }

/-- `WakePulse()` (40_transceiver.md R109). -/
def wakePulse (s : State) : State := drive (wakeTokens s.params.val) s

/-- `Wakeup()` (42_framer.md R153). -/
def wakeup (s : State) : ResultCode × State :=
  let p := s.params.val
  let (st, s1) := receiveBytes 0 4 (sendBytes p.rxPrefix ((wakePulse s).zeroRx 4))
  let w := wakeVerdict p st s1.rx
  if w = .success then (w, setComm .awakeSynced s1)
  else (w, (setComm .unknownAsleep s1).pass p.tMaxExecDelay)

/-- `STATUS.SESSION_LOST <- 1` -/
def loseSession (s : State) : State := { s with status := { s.status with sessionLost := true } }

/-- Step 2 of Resync (42_framer.md R154): the sleep byte, then Wakeup. -/
def rewake (s : State) : ResyncOutcome × State :=
  match wakeup (setComm .unknownAsleep (sendBytes [s.params.val.sleepByte] s)) with
  | (.success, s1) => (.rewoken, loseSession s1)
  | (_, s1) => (.unreachable, s1)

/-- `Resync(R)` (42_framer.md R154). -/
def resync (s : State) : ResyncOutcome × State :=
  match receiveFrame (s.pass s.params.val.tSyncTimeout) with
  | (.success, s1) => (.synced, setComm .awakeSynced s1)
  | (_, s1) => rewake s1

/-- `n` attempts of PollReceive (42_framer.md R155). -/
def pollReceive : Nat → State → ResultCode × State
  | 0, s => (.rxTimeout, s)
  | n + 1, s =>
    match receiveFrame s with
    | (.rxTimeout, s1) =>
      let spent := s1.now - s.now
      let tPoll := s.params.val.tPoll
      pollReceive n (if spent < tPoll then s1.pass (tPoll - spent) else s1)
    | r => r

/-- How an inner or an outer loop of SendAndReceive ended. -/
inductive LoopEnd where
  /-- The operation finishes with this code. -/
  | finished (c : ResultCode)
  /-- The next outer iteration follows, or the exhaustion result; `last_escalation` is as given. -/
  | resend (e : Escalation)
deriving DecidableEq, Repr

/-- A frame whose length and CRC are good (42_framer.md R157, steps 5 and 6). -/
def takeFrame (s : State) : LoopEnd :=
  if 4 < s.rx.frameLen then .finished .success
  else if s.rx.read 1 = s.params.val.stComm then .resend .deviceCommStatus
  else .finished (statusResult s.params.val (s.rx.read 1))

/-- Resync inside the inner loop (42_framer.md R157, step 4): `none` goes on with the next inner
iteration. -/
def recover (s : State) : Option LoopEnd × State :=
  match resync s with
  | (.synced, s1) => (none, s1)
  | (.rewoken, s1) => (some (.resend .none), s1)
  | (.unreachable, s1) => (some (.finished .fatalCommFailure), s1)

/-- Resync after a poll budget that ran out (42_framer.md R157, step 3): the command is resent. -/
def recoverAndResend (s : State) : LoopEnd × State :=
  match resync s with
  | (.unreachable, s1) => (.finished .fatalCommFailure, s1)
  | (_, s1) => (.resend .none, s1)

/-- One iteration of the inner (receive-retry) loop of SendAndReceive (42_framer.md R157, steps 3 to
6). -/
def receiveOnce (s : State) : Option LoopEnd × State :=
  match pollReceive s.nPoll s with
  | (.rxTimeout, s1) => (some (recoverAndResend s1).1, (recoverAndResend s1).2)
  | (.success, s1) =>
    let s2 := Action.run .checkFrame s1
    if s1.rx.checkFrame s1.bound = .matched then (some (takeFrame s2), setComm .awakeSynced s2)
    else recover s2
  | (_, s1) => recover s1

/-- The inner loop of SendAndReceive, at most `n` more iterations (42_framer.md R157). -/
def receiveRetry : Nat → State → LoopEnd × State
  | 0, s => (.resend .none, s)
  | n + 1, s =>
    match receiveOnce s with
    | (some e, s1) => (e, s1)
    | (none, s1) => receiveRetry n s1

/-- One outer iteration of SendAndReceive up to the inner loop (42_framer.md R157): the command frame,
DEVICE_BUSY, and the execution delay. -/
def transmit (s : State) : State :=
  let s1 := sendBytes (s.params.val.cmdPrefix ++ s.tx.prefixBytes s.tx.frameLen) s
  (setComm .deviceBusy s1).pass s.execDelayUs

/-- The outer (send-retry) loop of SendAndReceive and its exhaustion (42_framer.md R157, R158). `e` is
`last_escalation` of the iteration before. -/
def sendRetry : Nat → Escalation → State → ResultCode × State
  | 0, .deviceCommStatus, s => (.deviceCommStatus, s)
  | 0, .none, s => (.fatalCommFailure, s)
  | n + 1, _, s =>
    match receiveRetry s.params.val.nRecvAttempts (transmit s) with
    | (.finished c, s1) => (c, s1)
    | (.resend e, s1) => sendRetry n e s1

/-- Step 1 of SendAndReceive (42_framer.md R157): the CRC of the command frame goes to `TX[L-2]`,
`TX[L-1]` and CRC_RESULT. -/
def appendCrc (s : State) : State :=
  (s.writeTxCrc (s.tx.frameLen - 2) s.tx.frameCrc).storeCrc s.tx.frameCrc

/-- `SendAndReceive()` after its parameter check (42_framer.md R157). -/
def sendAndReceive (s : State) : ResultCode × State :=
  sendRetry s.params.val.nSendAttempts .none (appendCrc s)

/-- The state in which one iteration of the inner loop calls Resync, if it does (42_framer.md R157, steps
3 and 4). -/
def resyncOfOnce (s : State) : List State :=
  match pollReceive s.nPoll s with
  | (.success, s1) =>
    if s1.rx.checkFrame s1.bound = .matched then [] else [Action.run .checkFrame s1]
  | (_, s1) => [s1]

/-- The states in which the inner loop calls Resync, in order. -/
def resyncsOfRetry : Nat → State → List State
  | 0, _ => []
  | n + 1, s =>
    resyncOfOnce s ++
      match receiveOnce s with
      | (some _, _) => []
      | (none, s1) => resyncsOfRetry n s1

/-- The states in which the outer loop calls Resync, in order. -/
def resyncsOfSend : Nat → State → List State
  | 0, _ => []
  | n + 1, s =>
    resyncsOfRetry s.params.val.nRecvAttempts (transmit s) ++
      match receiveRetry s.params.val.nRecvAttempts (transmit s) with
      | (.finished _, _) => []
      | (.resend _, s1) => resyncsOfSend n s1

/-- The states in which SendAndReceive calls Resync, in order (42_framer.md R157). -/
def resyncsOfExchange (s : State) : List State := resyncsOfSend s.params.val.nSendAttempts (appendCrc s)

/-- The state in which the pseudocode of an accepted operation starts, sequencer apart: CMD holds the
code, ACTIVE is set, and DONE, SESSION_LOST and CMD_REJECTED are cleared (10_state.md R23). -/
def started (i : Instr) (s : State) : State :=
  { s with
    cmd := encode i
    status := { active := true, done := false, sessionLost := false, cmdRejected := false } }

/-- `finish(c)` in the state `t` (00_scope.md R13): RESULT, DONE and ACTIVE; the sequencer is idle
(10_state.md R21; log 6). -/
def completed (c : ResultCode) (t : State) : State :=
  { t with
    result := c
    status := { t.status with active := false, done := true }
    seq := Sequencer.idle }

/-- The bound of an operation's duration (70_reset_and_hazards.md R224), its parameter check passed. -/
def operationBound (i : Instr) (s : State) : Nat :=
  let p := s.params.val
  match i with
  | .setSignal | .crcCompute | .crcAppend | .crcCheckRx | .crcCheckTx => 0
  | .sendBytes => listDuration p (s.tx.prefixBytes s.argLen.toNat)
  | .receiveBytes => 8 * s.argLen.toNat * bitBound p
  | .wakePulse => p.tWakeLow + p.tWakeSettle
  | .sleepByte => byteDuration p p.sleepByte
  | .receiveFrame => frameBound p s.argRspSize.toNat
  | .wakeup => wakeBound p
  | .resync => resyncBound p s.argRspSize.toNat
  | .sendAndReceive =>
    exchangeBound p ((appendCrc s).tx.prefixBytes (appendCrc s).tx.frameLen) (1000 * s.argExecDelay.toNat) s.nPoll
      s.argRspSize.toNat

end Sys2Proof.Reference
end

