-- ==== Sys2Proof/Certificates/Slice0/Obligations.lean ====
section
/-! DEFINITION. The statements for the provers (OBLIGATIONS.json lists them). -/

open Sys2Proof Sys2Proof.Machine

/-! ### Encodings -/

/-- 30_encoding.md R80: the operation each assigned CMD value names. -/
def Obligations.DecodesOperationMap : Prop :=
  decode 0x10 = some .setSignal ∧ decode 0x11 = some .sendBytes ∧ decode 0x12 = some .receiveBytes ∧
  decode 0x13 = some .wakePulse ∧ decode 0x14 = some .sleepByte ∧ decode 0x20 = some .crcCompute ∧
  decode 0x21 = some .crcAppend ∧ decode 0x22 = some .crcCheckRx ∧ decode 0x23 = some .crcCheckTx ∧
  decode 0x30 = some .receiveFrame ∧ decode 0x31 = some .wakeup ∧ decode 0x32 = some .resync ∧
  decode 0x33 = some .sendAndReceive

/-- 30_encoding.md R81, R84, R85: all 8 bits are matched, an operation has one code, and the codes R84
lists name none. -/
def Obligations.DecodeMatchesWholeByte : Prop :=
  (∀ (w : Byte) (i : Instr), i.wellFormed = true → (decode w = some i ↔ w = encode i)) ∧
  (∀ w : Byte, w.toNat ≤ 0x0F ∨ (0x15 ≤ w.toNat ∧ w.toNat ≤ 0x1F) ∨ (0x24 ≤ w.toNat ∧ w.toNat ≤ 0x2F) ∨
    0x34 ≤ w.toNat → decode w = none)

/-- 30_encoding.md R88: the bus word of a host access, bit by bit, with the rule's two examples. -/
def Obligations.BusWordFormat : Prop :=
  (∀ (a : Addr) (v : Byte), (encodeBus (.write a v)).getLsbD 19 = true ∧ (encodeBus (.read a)).getLsbD 19 = false ∧
    (encodeBus (.write a v)).getLsbD 18 = false ∧ (encodeBus (.read a)).getLsbD 18 = false ∧
    (encodeBus (.write a v)).extractLsb' 8 10 = a ∧ (encodeBus (.read a)).extractLsb' 8 10 = a ∧
    (encodeBus (.write a v)).extractLsb' 0 8 = v ∧ (encodeBus (.read a)).extractLsb' 0 8 = 0x00#8) ∧
  encodeBus (.write 0x000 0x21) = 0x80021#20 ∧ encodeBus (.read 0x001) = 0x00100#20

/-- Every host access is read back from its bus word, and a word that carries an access is that access's
word: 30_encoding.md R88 gives no other word a meaning, and the model reads none from one (log 13). -/
def Obligations.BusWordsRoundTrip : Prop :=
  (∀ x : BusAccess, decodeBus (encodeBus x) = some x) ∧
  (∀ (w : BusWord) (x : BusAccess), decodeBus w = some x → encodeBus x = w)

/-- 30_encoding.md R87, R89: what a line of a host program expands to, in full. `wait` is one event that
reads STATUS again and again (`ReadsReturn` says what each read does); the pace of the reads is the
host's (the model's choice, log 11). That an address past 0x3FF is taken modulo 2^10 (log 17), and that
each access stands 0 µs and 0 engine steps after the one before it (log 18), are the model's choices. -/
def Obligations.HostLinesExpand : Prop :=
  ∀ p : Pace,
    (∀ a v, HostLine.expand p (.wr a v) = [⟨0, 0, .bus (.write a v)⟩]) ∧
    (∀ a, HostLine.expand p (.rd a) = [⟨0, 0, .bus (.read a)⟩]) ∧
    (∀ i, HostLine.expand p (.op i) = [⟨0, 0, .bus (.write 0x000 (encode i))⟩]) ∧
    HostLine.expand p .wait = [⟨0, 0, .waitDone p⟩] ∧
    (∀ (a : Addr) (v : Word),
      HostLine.expand p (.wr16 a v) =
        [⟨0, 0, .bus (.write a (v.extractLsb' 0 8))⟩, ⟨0, 0, .bus (.write (a + 1) (v.extractLsb' 8 8))⟩]) ∧
    (∀ ix : Nat, HostLine.expand p (.ldtx ix []) = []) ∧
    (∀ (ix : Nat) (b : Byte) (bs : List Byte),
      HostLine.expand p (.ldtx ix (b :: bs)) =
        ⟨0, 0, .bus (.write (BitVec.ofNat 10 (0x100 + ix)) b)⟩ :: HostLine.expand p (.ldtx (ix + 1) bs)) ∧
    (∀ ix n : Nat, (HostLine.expand p (.rdrx ix n)).length = n) ∧
    (∀ ix n : Nat, ∀ k < n,
      (HostLine.expand p (.rdrx ix n))[k]? = some ⟨0, 0, .bus (.read (BitVec.ofNat 10 (0x200 + ix + k)))⟩)

/-! ### The step -/

/-- A CMD write that is due runs the operation its byte names (10_state.md R21, R23): the step is
`exec` of it, with the access taken off the host's list. -/
def Obligations.StepRunsDecodedOperation : Prop :=
  ∀ (s : State) (w : Byte) (i : Instr) (rest : List HostEvent),
    i.wellFormed = true → s.host = ⟨0, 0, .bus (.write 0x000 w)⟩ :: rest → decode w = some i →
    step s = exec i { s with host := rest }

/-- 60_exceptions.md R190, R195: nothing is trapped; every step has a next state. -/
def Obligations.EveryStepGoesOn : Prop :=
  ∀ s : State, ∃ t, step s = .next t

/-- 00_scope.md R13, 10_state.md R21 and 70_reset_and_hazards.md R215: an accepted operation holds CMD, and has either
reached `finish` or waits, still ACTIVE, for a host access that is due. The
sequencer's idle value and the form of a suspension are the model's choices (log 3, log 6, log 15). -/
def Obligations.OperationFinishesOrWaits : Prop :=
  ∀ (i : Instr) (s t : State), s.status.active = false → s.resetIn = false → exec i s = .next t →
    t.cmd = encode i ∧
    ((t.status.active = false ∧ t.status.done = true ∧ t.seq = Sequencer.idle) ∨
      (t.status.active = true ∧ t.status.done = false ∧ t.seq.op = some i ∧ t.due = true))

/-- 20_memory.md R58, R60 and 70_reset_and_hazards.md R215: an operation accepted while host accesses are
still to come ends as it does with none to come, and while it runs, no step (an access of the host,
or the engine going on) changes what becomes of it; only a reset does. -/
def Obligations.RunningOperationUndisturbed : Prop :=
  (∀ (i : Instr) (s t : State), s.status.active = false → s.resetIn = false → exec i s = .next t →
    ∃ u, exec i { s with host := [] } = .next u ∧ u.status.active = false ∧ fate t = observed u) ∧
  (∀ s t : State, s.status.active = true → s.resetIn = false → NoReset s → step s = .next t → fate t = fate s)

/-- 10_state.md R35: `now` only grows, but for a reset. -/
def Obligations.TimeOnlyGrows : Prop :=
  ∀ s t : State, NoReset s → step s = .next t → s.now ≤ t.now

/-- 10_state.md R20, 20_memory.md R60: no operation writes an argument register, up to its end or to the
first host access that is due, and no step while it runs does, whatever the host's access is short
of a reset; nor the parameters, nor the device's waveform. -/
def Obligations.OperationsOnlyReadArguments : Prop :=
  (∀ (i : Instr) (s t : State), exec i s = .next t →
    t.argLen = s.argLen ∧ t.argLevel = s.argLevel ∧ t.argRspSize = s.argRspSize ∧
    t.argExecDelay = s.argExecDelay ∧ t.argExecTimeout = s.argExecTimeout ∧ t.params = s.params ∧ t.dev = s.dev) ∧
  (∀ s t : State, s.status.active = true → s.resetIn = false → NoReset s → step s = .next t →
    t.argLen = s.argLen ∧ t.argLevel = s.argLevel ∧ t.argRspSize = s.argRspSize ∧
    t.argExecDelay = s.argExecDelay ∧ t.argExecTimeout = s.argExecTimeout ∧ t.params = s.params ∧ t.dev = s.dev)

/-! ### The host interface -/

/-- 30_encoding.md R84: every CMD value that names no operation is unassigned, the listed ones among
them; its write to an idle engine is accepted, and finishes at once with UNKNOWN_OPERATION: nothing
but CMD, RESULT and STATUS changes, no time passes, and the wire is not touched. -/
def Obligations.UnassignedCodeFinishesAtOnce : Prop :=
  (∀ w : Byte, w.toNat ≤ 0x0F ∨ (0x15 ≤ w.toNat ∧ w.toNat ≤ 0x1F) ∨ (0x24 ≤ w.toNat ∧ w.toNat ≤ 0x2F) ∨
    0x34 ≤ w.toNat → ∀ i : Instr, w ≠ encode i) ∧
  (∀ (s : State) (w : Byte), Inv s → Ready s → (∀ i : Instr, w ≠ encode i) →
    step { s with host := [⟨0, 0, .bus (.write 0x000 w)⟩] } = .next
      { s with
        cmd := w
        status := { active := false, done := true, sessionLost := false, cmdRejected := false }
        result := .unknownOperation })

/-- 60_exceptions.md R197: a CMD write while ACTIVE = 1 sets CMD_REJECTED and does nothing else. -/
def Obligations.RejectedCommandSetsOnlyItsBit : Prop :=
  ∀ (s : State) (w : Byte) (rest : List HostEvent),
    s.status.active = true → s.resetIn = false → s.host = ⟨0, 0, .bus (.write 0x000 w)⟩ :: rest →
    step s = .next { s with host := rest, status := { s.status with cmdRejected := true } }

/-- 20_memory.md R60: every other write while ACTIVE = 1 is ignored. -/
def Obligations.WritesWhileActiveIgnored : Prop :=
  ∀ (s : State) (a : Addr) (v : Byte) (rest : List HostEvent),
    s.status.active = true → a ≠ 0x000 → s.host = ⟨0, 0, .bus (.write a v)⟩ :: rest →
    step s = .next { s with host := rest }

/-- 20_memory.md R61, R59: what a read returns. While ACTIVE = 1 it is live for STATUS and WIRE, 0x00 at a
reserved address, and a free value elsewhere; while ACTIVE = 0 it is the stored byte. No read changes
anything else (`freeCount` numbers the unspecified bytes: the model's form of "any value", log 4).
30_encoding.md R89: a due `wait` reads STATUS, and stays to read it again while DONE is 0; when the next
read is due (the pace) is the model's choice (log 11). -/
def Obligations.ReadsReturn : Prop :=
  (∀ (s : State) (a : Addr) (rest : List HostEvent), s.host = ⟨0, 0, .bus (.read a)⟩ :: rest →
      ∃ (v : Byte) (n : Nat),
        step s = .next { s with host := rest, reads := v :: s.reads, freeCount := n } ∧
        (a = 0x001 → v = s.status.toByte) ∧
        (a = 0x00E → v = s.wireByte) ∧
        (s.reserved a = true → v = 0x00) ∧
        (s.status.active = false → v = s.stored a) ∧
        (s.status.active = true → a ≠ 0x001 → a ≠ 0x00E → s.reserved a = false →
          v = Config.freeByte s.freeCount ∧ n = s.freeCount + 1) ∧
        (s.status.active = false ∨ a = 0x001 ∨ a = 0x00E ∨ s.reserved a = true → n = s.freeCount)) ∧
  (∀ (s : State) (p : Pace) (rest : List HostEvent), s.host = ⟨0, 0, .waitDone p⟩ :: rest →
    step s = .next { s with
      reads := s.status.toByte :: s.reads
      host := if s.status.done then rest
        else ⟨p.us, if p.us = 0 then max 1 p.steps else p.steps, .waitDone p⟩ :: rest })

/-- 20_memory.md R51, R53, R54: the byte stored at each address. -/
def Obligations.AddressMap : Prop :=
  ∀ s : State,
    s.stored 0x000 = s.cmd ∧ s.stored 0x001 = s.status.toByte ∧ s.stored 0x002 = s.result.toByte ∧
    s.stored 0x003 = s.argLen ∧ s.stored 0x004 = (if s.argLevel then 0x01 else 0x00) ∧
    s.stored 0x005 = s.argRspSize ∧
    s.stored 0x006 = s.argExecDelay.extractLsb' 0 8 ∧ s.stored 0x007 = s.argExecDelay.extractLsb' 8 8 ∧
    s.stored 0x008 = s.argExecTimeout.extractLsb' 0 8 ∧ s.stored 0x009 = s.argExecTimeout.extractLsb' 8 8 ∧
    s.stored 0x00A = s.crcResult.extractLsb' 0 8 ∧ s.stored 0x00B = s.crcResult.extractLsb' 8 8 ∧
    s.stored 0x00C = s.rxCount ∧ s.stored 0x00D = s.commState.toByte ∧ s.stored 0x00E = s.wireByte ∧
    (∀ (a : Addr) (k : Nat), a.toNat = 0x100 + k → k < 0x100 →
      s.stored a = if k < s.params.val.txCapacity then s.tx.read k else 0x00) ∧
    (∀ (a : Addr) (k : Nat), a.toNat = 0x200 + k → k < 0x100 →
      s.stored a = if k < s.params.val.rxCapacity then s.rx.read k else 0x00) ∧
    (∀ a : Addr, (0x00F ≤ a.toNat ∧ a.toNat ≤ 0x0FF) ∨ 0x300 ≤ a.toNat → s.stored a = 0x00)

/-- 20_memory.md R52 (and R51, R53 for which addresses are reserved): a read returns 0x00, a write is
ignored, and neither has a side effect. -/
def Obligations.ReservedAddresses : Prop :=
  ∀ (s : State) (a : Addr) (v : Byte) (rest : List HostEvent),
    ((0x00F ≤ a.toNat ∧ a.toNat ≤ 0x0FF) ∨ (0x100 + s.params.val.txCapacity ≤ a.toNat ∧ a.toNat ≤ 0x1FF) ∨
      (0x200 + s.params.val.rxCapacity ≤ a.toNat ∧ a.toNat ≤ 0x2FF) ∨ 0x300 ≤ a.toNat) →
    (s.host = ⟨0, 0, .bus (.read a)⟩ :: rest → step s = .next { s with host := rest, reads := 0x00 :: s.reads }) ∧
    (s.host = ⟨0, 0, .bus (.write a v)⟩ :: rest → step s = .next { s with host := rest })

/-- 20_memory.md R51, R53, R59 and 10_state.md R27: a write to an idle engine, at any address but CMD,
changes the byte read back at that address and no other, and only where the address is RW; bits 7:1
of ARG_LEVEL read 0. Nothing else of the block changes. -/
def Obligations.IdleWriteChangesOnlyItsAddress : Prop :=
  ∀ (s : State) (a : Addr) (v : Byte) (rest : List HostEvent),
    Inv s → s.status.active = false → s.resetIn = false → a ≠ 0x000 →
    s.host = ⟨0, 0, .bus (.write a v)⟩ :: rest →
    ∃ t, step s = .next t ∧
      (∀ b : Addr, t.stored b =
        if b = a ∧ ((0x003 ≤ a.toNat ∧ a.toNat ≤ 0x009) ∨
            (0x100 ≤ a.toNat ∧ a.toNat < 0x100 + s.params.val.txCapacity)) then
          (if a = 0x004 then v &&& 0x01 else v)
        else s.stored b) ∧
      t = { s with
        host := rest
        argLen := t.argLen
        argLevel := t.argLevel
        argRspSize := t.argRspSize
        argExecDelay := t.argExecDelay
        argExecTimeout := t.argExecTimeout
        tx := t.tx }

/-- 10_state.md R24, R33, R34, R43 and 30_encoding.md R86: the bits of STATUS and WIRE, the codes of
RESULT and COMM_STATE, and the reserved bits, which read 0. -/
def Obligations.RegisterCodes : Prop :=
  (∀ t : Status, t.toByte.getLsbD 0 = t.active ∧ t.toByte.getLsbD 1 = t.done ∧ t.toByte.getLsbD 2 = t.sessionLost ∧
    t.toByte.getLsbD 3 = t.cmdRejected ∧ t.toByte.extractLsb' 4 4 = 0x0#4) ∧
  (∀ s : State, s.wireByte.getLsbD 0 = (s.line == .high) ∧ s.wireByte.getLsbD 1 = s.driveLow ∧
    s.wireByte.extractLsb' 2 6 = 0x00#6) ∧
  (∀ c : CommState, c.toByte.extractLsb' 2 6 = 0x00#6) ∧
  CommState.unknownAsleep.toByte = 0 ∧ CommState.awakeSynced.toByte = 1 ∧ CommState.deviceBusy.toByte = 2 ∧
  (∀ c : ResultCode, c.toByte.extractLsb' 4 4 = 0x0#4) ∧
  ResultCode.success.toByte = 0x0 ∧ ResultCode.parameterError.toByte = 0x1 ∧ ResultCode.rxTimeout.toByte = 0x2 ∧
  ResultCode.rxPartial.toByte = 0x3 ∧ ResultCode.invalidFrameSize.toByte = 0x4 ∧
  ResultCode.badChecksum.toByte = 0x5 ∧ ResultCode.commFailure.toByte = 0x6 ∧
  ResultCode.deviceCommStatus.toByte = 0x7 ∧ ResultCode.deviceParseError.toByte = 0x8 ∧
  ResultCode.deviceExecutionError.toByte = 0x9 ∧ ResultCode.deviceOtherStatus.toByte = 0xA ∧
  ResultCode.resyncedWithWakeup.toByte = 0xB ∧ ResultCode.fatalCommFailure.toByte = 0xC ∧
  ResultCode.unknownOperation.toByte = 0xD

/-! ### Reset and invariant -/

/-- 10_state.md R42: what State.reset holds. The internal CRC register and the sequencer's counters, whose
reset values the table leaves open (log 5, log 6), are left out. -/
def Obligations.ResetValues : Prop :=
  State.reset.cmd = 0x00 ∧ State.reset.status.toByte = 0x00 ∧ State.reset.result.toByte = 0x00 ∧
  State.reset.argLen = 0x00 ∧ State.reset.argLevel = false ∧ State.reset.argRspSize = 0x00 ∧
  State.reset.argExecDelay = 0x0000 ∧ State.reset.argExecTimeout = 0x0000 ∧ State.reset.crcResult = 0x0000 ∧
  State.reset.rxCount = 0x00 ∧ State.reset.commState = .unknownAsleep ∧ State.reset.driveLow = false ∧
  (∀ k, State.reset.tx.read k = 0x00) ∧ (∀ k, State.reset.rx.read k = 0x00) ∧ State.reset.seq.op = none ∧
  State.reset.now = 0

/-- 70_reset_and_hazards.md R210, R211: asserting the reset input, in any state, gives every register its
reset value, releases the line, sets `now` to 0, abandons a running operation without `finish`, and
does not touch the device's pull on the line (log 10). -/
def Obligations.ResetFromAnyState : Prop :=
  ∀ (s : State) (rest : List HostEvent), s.host = ⟨0, 0, .resetAssert⟩ :: rest →
    ∃ t, step s = .next t ∧
      t.cmd = 0x00 ∧ t.status.toByte = 0x00 ∧ t.result.toByte = 0x00 ∧ t.argLen = 0x00 ∧ t.argLevel = false ∧
      t.argRspSize = 0x00 ∧ t.argExecDelay = 0x0000 ∧ t.argExecTimeout = 0x0000 ∧ t.crcResult = 0x0000 ∧
      t.rxCount = 0x00 ∧ t.commState = .unknownAsleep ∧ t.driveLow = false ∧
      (∀ k, t.tx.read k = 0x00) ∧ (∀ k, t.rx.read k = 0x00) ∧ t.seq.op = none ∧ t.now = 0 ∧
      t.resetIn = true ∧ t.params = s.params ∧ t.host = rest ∧ t.devLow = s.devLow

/-- 70_reset_and_hazards.md R210: while reset is asserted, host writes are ignored and host reads return the
reset values (WIRE shows the line; log 10); when it is released, the engine is idle. -/
def Obligations.HeldInReset : Prop :=
  ∀ (s : State) (rest : List HostEvent), Inv s → s.resetIn = true →
    (∀ (a : Addr) (v : Byte), s.host = ⟨0, 0, .bus (.write a v)⟩ :: rest → step s = .next { s with host := rest }) ∧
    (∀ a : Addr, s.host = ⟨0, 0, .bus (.read a)⟩ :: rest →
      step s = .next { s with
        host := rest
        reads := (if a = 0x00E then (if s.devLow then 0x00 else 0x01) else 0x00) :: s.reads }) ∧
    (s.host = ⟨0, 0, .resetRelease⟩ :: rest →
      step s = .next { s with host := rest, resetIn := false } ∧ s.status.active = false)

/-- The invariant (with the model's choices of log 5, log 6, log 7 and log 10) holds after reset. -/
def Obligations.InvariantAtReset : Prop := Inv State.reset

/-- Every step keeps the invariant. Its clauses on the idle sequencer, on the waveform kept, and on the
reset values of the internal CRC register and of the sequencer are the model's choices (log 5,
log 6, log 7), and so is its clause that `now` stays 0 while reset is asserted (log 10). -/
def Obligations.StepKeepsInvariant : Prop :=
  ∀ s t : State, Inv s → step s = .next t → Inv t

/-! ### Functions of the spec -/

/-- 40_transceiver.md R101: the line is LOW when the engine or the device pulls it, and HIGH otherwise. -/
def Obligations.LineIsOpenDrain : Prop :=
  ∀ s : State,
    (s.line = .low ↔ s.driveLow = true ∨ ∃ p ∈ s.dev, p.start ≤ s.now ∧ s.now < p.stop) ∧
    (s.line = .high ↔ s.line ≠ .low)

/-- 30_encoding.md R71, R72, R74, R75: the waveform of a bit, of a byte (the example 0x07 included), of a byte
list and of the wake pulse. -/
def Obligations.TokenWaveforms : Prop :=
  ∀ p : Params,
    tokenOf p true = [⟨.low, p.t1Low⟩, ⟨.high, p.t1High⟩] ∧
    tokenOf p false = [⟨.low, p.t0Low1⟩, ⟨.high, p.t0High1⟩, ⟨.low, p.t0Low2⟩, ⟨.high, p.t0High2⟩] ∧
    (∀ b : Byte, byteTokens p b = (List.range 8).flatMap fun k => tokenOf p (b.getLsbD k)) ∧
    byteTokens p 0x07 = [true, true, true, false, false, false, false, false].flatMap (tokenOf p) ∧
    (∀ as bs : List Byte, listTokens p (as ++ bs) = listTokens p as ++ listTokens p bs) ∧
    (∀ b : Byte, listTokens p [b] = byteTokens p b) ∧
    wakeTokens p = [⟨.low, p.tWakeLow⟩, ⟨.high, p.tWakeSettle⟩]

/-- 70_reset_and_hazards.md R223: the durations of tokens, bytes and byte lists, and that SendBytes takes
exactly that long, as a procedure and as the operation SEND_BYTES. -/
def Obligations.TokenDurations : Prop :=
  ∀ p : Params,
    traceLen (tokenOf p true) = p.t1Low + p.t1High ∧
    traceLen (tokenOf p false) = p.t0Low1 + p.t0High1 + p.t0Low2 + p.t0High2 ∧
    (∀ b : Byte, traceLen (byteTokens p b) =
      popcount b * (p.t1Low + p.t1High) + (8 - popcount b) * (p.t0Low1 + p.t0High1 + p.t0Low2 + p.t0High2)) ∧
    (∀ bs : List Byte, traceLen (listTokens p bs) = (bs.map (byteDuration p)).sum) ∧
    (∀ (s : State) (bs : List Byte), s.params.val = p →
      (Reference.sendBytes bs s).now = s.now + (bs.map (byteDuration p)).sum) ∧
    (∀ s : State, s.params.val = p → Ready s → s.argLen.toNat ≤ p.txCapacity →
      ∃ t, exec .sendBytes s = .next t ∧
        t.now = s.now + (((List.range s.argLen.toNat).map s.tx.read).map (byteDuration p)).sum)

/-- 41_crc.md R130: one bit of the CRC register, the start value, and vectors of 95_test_vectors.md. -/
def Obligations.CrcRegister : Prop :=
  (∀ (c : Word) (d : Bool), crcBit c d =
    if (d ^^ c.getLsbD 15) = true then (c <<< 1) ^^^ 0x8005#16 else c <<< 1) ∧
  (∀ (c : Word) (b : Byte), crcByte c b =
    crcBit (crcBit (crcBit (crcBit (crcBit (crcBit (crcBit (crcBit c (b.getLsbD 0)) (b.getLsbD 1)) (b.getLsbD 2))
      (b.getLsbD 3)) (b.getLsbD 4)) (b.getLsbD 5)) (b.getLsbD 6)) (b.getLsbD 7)) ∧
  crc16 [] = 0x0000 ∧ (∀ (bs : List Byte) (b : Byte), crc16 (bs ++ [b]) = crcByte (crc16 bs) b) ∧
  crc16 [0x01] = 0x8303 ∧ crc16 [0x80] = 0x8005 ∧ crc16 [0x07, 0x1B, 0x00, 0x00, 0x00] = 0xCD24 ∧
  crc16 [0x31, 0x32, 0x33, 0x34, 0x35, 0x36, 0x37, 0x38, 0x39] = 0xBCDD

/-- 41_crc.md R133: a run of 0x00 bytes from the start leaves the register at 0x0000. -/
def Obligations.CrcIgnoresLeadingZeros : Prop :=
  ∀ (k : Nat) (bs : List Byte), crc16 (List.replicate k 0x00#8 ++ bs) = crc16 bs

/-- 41_crc.md R137: (a) a frame with its CRC appended matches; (b) with one bit of it flipped at a byte
position other than 0, it does not. -/
def Obligations.CrcRoundTripAndSingleBit : Prop :=
  (∀ (m : Memory) (cap L : Nat) (b : List Byte), 3 ≤ L → L ≤ cap → b.length = L - 2 →
    m.read 0 = BitVec.ofNat 8 L → L < 256 → m.prefixBytes L = b ++ [(crc16 b).extractLsb' 0 8, (crc16 b).extractLsb' 8 8] →
    m.checkFrame cap = .matched) ∧
  (∀ (m m' : Memory) (cap j k : Nat), m.checkFrame cap = .matched → 1 ≤ j → j < m.frameLen → k < 8 →
    (∀ x, m'.read x = if x = j then m.read x ^^^ (1#8 <<< k) else m.read x) →
    m'.checkFrame cap = .mismatch)

/-- 41_crc.md R132: CheckFrame. -/
def Obligations.CheckFrameOutcome : Prop :=
  ∀ (m : Memory) (cap L : Nat), (m.read 0).toNat = L →
    (m.checkFrame cap = .badLen ↔ L < 3 ∨ cap < L) ∧
    (3 ≤ L → L ≤ cap →
      (m.checkFrame cap = .matched ↔
        m.read (L - 2) = (crc16 (m.prefixBytes (L - 2))).extractLsb' 0 8 ∧
        m.read (L - 1) = (crc16 (m.prefixBytes (L - 2))).extractLsb' 8 8) ∧
      (m.checkFrame cap = .mismatch ↔ m.checkFrame cap ≠ .matched))

/-- 42_framer.md R156 and 30_encoding.md R79: the result of a status byte. -/
def Obligations.StatusByteResult : Prop :=
  ∀ p : WfParams,
    statusResult p.val p.val.stParse = .deviceParseError ∧
    statusResult p.val p.val.stExec = .deviceExecutionError ∧
    statusResult p.val p.val.stSuccess = .success ∧
    (∀ b : Byte, b ≠ p.val.stParse → b ≠ p.val.stExec → b ≠ p.val.stSuccess → b ≠ p.val.stComm →
      statusResult p.val b = .deviceOtherStatus)

/-! ### Results of the operations: what each leaves, in full -/

/-- 60_exceptions.md R193(a): an operation whose parameter check fails finishes with PARAMETER_ERROR and
changes nothing else.
The sequencer's idle value afterwards (log 6) and what the internal CRC register holds (log 5) are the
model's choices. -/
def Obligations.ParameterErrors : Prop :=
  ∀ (i : Instr) (s : State), Ready s → illegal i s = true →
    exec i s = .next (Reference.completed .parameterError (Reference.started i s))

/-- 40_transceiver.md R110.
The sequencer's idle value afterwards (log 6) and what the internal CRC register holds (log 5) are the
model's choices. -/
def Obligations.SetSignalResult : Prop :=
  ∀ s : State, Ready s →
    exec .setSignal s = .next
      (Reference.completed .success { Reference.started .setSignal s with driveLow := !s.argLevel })

/-- 40_transceiver.md R111.
The sequencer's idle value afterwards (log 6) and what the internal CRC register holds (log 5) are the
model's choices. -/
def Obligations.SendBytesResult : Prop :=
  ∀ s : State, Ready s → s.argLen.toNat ≤ s.params.val.txCapacity →
    exec .sendBytes s = .next (Reference.completed .success
      (Reference.sendBytes ((List.range s.argLen.toNat).map s.tx.read) (Reference.started .sendBytes s)))

/-- 40_transceiver.md R113.
The sequencer's idle value afterwards (log 6) and what the internal CRC register holds (log 5) are the
model's choices. -/
def Obligations.WakePulseResult : Prop :=
  ∀ s : State, Ready s →
    ∃ tr, exec .wakePulse s = .next (Reference.completed .success
      { Reference.started .wakePulse s with
        driveLow := false
        now := s.now + s.params.val.tWakeLow + s.params.val.tWakeSettle
        trace := tr }) ∧
      tr = extendTrace (extendTrace s.trace .low s.params.val.tWakeLow) .high s.params.val.tWakeSettle

/-- 40_transceiver.md R114.
The sequencer's idle value afterwards (log 6) and what the internal CRC register holds (log 5) are the
model's choices. -/
def Obligations.SleepByteResult : Prop :=
  ∀ s : State, Ready s →
    exec .sleepByte s = .next (Reference.completed .success
      { Reference.sendBytes [s.params.val.sleepByte] (Reference.started .sleepByte s) with
        commState := .unknownAsleep })

/-- 40_transceiver.md R112: the result is that of ReceiveBytes(0, n), after RX[0..n-1] is zero-filled.
The sequencer's idle value afterwards (log 6) and what the internal CRC register holds (log 5) are the
model's choices. -/
def Obligations.ReceiveBytesResult : Prop :=
  ∀ s : State, Ready s → s.argLen.toNat ≤ s.params.val.rxCapacity →
    ∃ r t, Reference.receiveBytes 0 s.argLen.toNat ((Reference.started .receiveBytes s).zeroRx s.argLen.toNat) = (r, t) ∧
      exec .receiveBytes s = .next (Reference.completed r t)

/-- 41_crc.md R133.
The sequencer's idle value afterwards (log 6) and what the internal CRC register holds (log 5) are the
model's choices. -/
def Obligations.CrcComputeResult : Prop :=
  ∀ s : State, Ready s → s.argLen.toNat ≤ s.params.val.txCapacity →
    exec .crcCompute s = .next (Reference.completed .success
      { Reference.started .crcCompute s with
        crc := crc16 ((List.range s.argLen.toNat).map s.tx.read)
        crcResult := crc16 ((List.range s.argLen.toNat).map s.tx.read) })

/-- 41_crc.md R134.
The sequencer's idle value afterwards (log 6) and what the internal CRC register holds (log 5) are the
model's choices. -/
def Obligations.CrcAppendResult : Prop :=
  ∀ s : State, Ready s → s.argLen.toNat + 2 ≤ s.params.val.txCapacity →
    ∃ (c : Word) (m : Memory), c = crc16 ((List.range s.argLen.toNat).map s.tx.read) ∧
      exec .crcAppend s = .next (Reference.completed .success
        { Reference.started .crcAppend s with crc := c, crcResult := c, tx := m }) ∧
      (Inv s → ∀ k, m.read k =
        if k = s.argLen.toNat then c.extractLsb' 0 8
        else if k = s.argLen.toNat + 1 then c.extractLsb' 8 8
        else s.tx.read k)

/-- 41_crc.md R135.
The sequencer's idle value afterwards (log 6) and what the internal CRC register holds (log 5) are the
model's choices. -/
def Obligations.CrcCheckRxResult : Prop :=
  ∀ s : State, Ready s → 3 ≤ (s.rx.read 0).toNat → (s.rx.read 0).toNat ≤ s.params.val.rxCapacity →
    ∃ c : Word, c = crc16 ((List.range ((s.rx.read 0).toNat - 2)).map s.rx.read) ∧
      exec .crcCheckRx s = .next (Reference.completed
        (if s.rx.read ((s.rx.read 0).toNat - 2) = c.extractLsb' 0 8 ∧
            s.rx.read ((s.rx.read 0).toNat - 1) = c.extractLsb' 8 8 then .success else .badChecksum)
        { Reference.started .crcCheckRx s with crc := c, crcResult := c })

/-- 41_crc.md R136.
The sequencer's idle value afterwards (log 6) and what the internal CRC register holds (log 5) are the
model's choices. -/
def Obligations.CrcCheckTxResult : Prop :=
  ∀ s : State, Ready s → 3 ≤ (s.tx.read 0).toNat → (s.tx.read 0).toNat ≤ s.params.val.txCapacity →
    ∃ c : Word, c = crc16 ((List.range ((s.tx.read 0).toNat - 2)).map s.tx.read) ∧
      exec .crcCheckTx s = .next (Reference.completed
        (if s.tx.read ((s.tx.read 0).toNat - 2) = c.extractLsb' 0 8 ∧
            s.tx.read ((s.tx.read 0).toNat - 1) = c.extractLsb' 8 8 then .success else .badChecksum)
        { Reference.started .crcCheckTx s with crc := c, crcResult := c })

/-- 42_framer.md R160: the result is that of ReceiveFrame (R152).
The sequencer's idle value afterwards (log 6) and what the internal CRC register holds (log 5) are the
model's choices. -/
def Obligations.ReceiveFrameResult : Prop :=
  ∀ s : State, Ready s → 4 ≤ s.argRspSize.toNat → s.argRspSize.toNat ≤ s.params.val.rxCapacity →
    ∃ r t, Reference.receiveFrame (Reference.started .receiveFrame s) = (r, t) ∧
      exec .receiveFrame s = .next (Reference.completed r t)

/-- 42_framer.md R161: the result is that of Wakeup (R153).
The sequencer's idle value afterwards (log 6) and what the internal CRC register holds (log 5) are the
model's choices. -/
def Obligations.WakeupResult : Prop :=
  ∀ s : State, Ready s →
    ∃ r t, Reference.wakeup (Reference.started .wakeup s) = (r, t) ∧
      exec .wakeup s = .next (Reference.completed r t)

/-- 42_framer.md R162: the result is that of Resync (R154).
The sequencer's idle value afterwards (log 6) and what the internal CRC register holds (log 5) are the
model's choices. -/
def Obligations.ResyncResult : Prop :=
  ∀ s : State, Ready s → 4 ≤ s.argRspSize.toNat → s.argRspSize.toNat ≤ s.params.val.rxCapacity →
    ∃ r t, Reference.resync (Reference.started .resync s) = (r, t) ∧
      exec .resync s = .next (Reference.completed
        (match r with
          | .synced => .success
          | .rewoken => .resyncedWithWakeup
          | .unreachable => .fatalCommFailure) t)

/-- 42_framer.md R163: the result is that of SendAndReceive (R157).
The sequencer's idle value afterwards (log 6) and what the internal CRC register holds (log 5) are the
model's choices. -/
def Obligations.SendAndReceiveResult : Prop :=
  ∀ s : State, Ready s → 7 ≤ (s.tx.read 0).toNat → (s.tx.read 0).toNat ≤ s.params.val.txCapacity →
    4 ≤ s.argRspSize.toNat → s.argRspSize.toNat ≤ s.params.val.rxCapacity →
    ∃ r t, Reference.sendAndReceive (Reference.started .sendAndReceive s) = (r, t) ∧
      exec .sendAndReceive s = .next (Reference.completed r t)

/-! ### What follows for the operations -/

/-- 60_exceptions.md R191, R204 and 42_framer.md R163: an operation finishes, and only with a result of its
row. -/
def Obligations.ResultSets : Prop :=
  ∀ (i : Instr) (s : State), Ready s →
    ∃ t, exec i s = .next t ∧ t.status.active = false ∧ t.status.done = true ∧ t.result ∈ allowedResults i

/-- 20_memory.md R68 and 10_state.md R36, R37: what an operation leaves as it was. Every byte of RX from
`rxExtent` on, every byte of TX but the two that take the CRC, and every register outside the
operation's row of R68. -/
def Obligations.OperationFrame : Prop :=
  ∀ (i : Instr) (s t : State), Inv s → Ready s → exec i s = .next t →
    (∀ k, rxExtent i s ≤ k → t.rx.read k = s.rx.read k) ∧
    (∀ k, (∀ n, txCrcIndex i s = some n → k ≠ n ∧ k ≠ n + 1) → t.tx.read k = s.tx.read k) ∧
    (writesCrcResult i = false → t.crcResult = s.crcResult) ∧
    (receives i = false → t.rxCount = s.rxCount) ∧
    (writesCommState i = false → t.commState = s.commState) ∧
    (canLoseSession i = false → t.status.sessionLost = false) ∧
    (movesWire i = false → t.driveLow = s.driveLow ∧ t.now = s.now ∧ t.trace = s.trace) ∧
    t.cmd = encode i ∧ t.status.cmdRejected = false ∧
    t.argLen = s.argLen ∧ t.argLevel = s.argLevel ∧ t.argRspSize = s.argRspSize ∧
    t.argExecDelay = s.argExecDelay ∧ t.argExecTimeout = s.argExecTimeout ∧
    t.params = s.params ∧ t.dev = s.dev ∧ t.host = [] ∧ t.resetIn = false ∧ t.reads = s.reads ∧
    t.freeCount = s.freeCount

/-- 40_transceiver.md R105: the wire state an operation leaves. -/
def Obligations.WireLeft : Prop :=
  ∀ (i : Instr) (s t : State), Ready s → exec i s = .next t →
    t.driveLow =
      if illegal i s = true ∨ movesWire i = false then s.driveLow
      else if i = .setSignal then !s.argLevel
      else if i = .sendBytes ∧ s.argLen = 0 then s.driveLow
      else false

/-- 42_framer.md R150: COMM_STATE after an operation that passed its parameter check. -/
def Obligations.CommStateTransitions : Prop :=
  ∀ (i : Instr) (s t : State), Ready s → illegal i s = false → exec i s = .next t →
    (writesCommState i = false → t.commState = s.commState) ∧
    (i = .sleepByte → t.commState = .unknownAsleep) ∧
    (i = .wakeup → t.commState = if t.result = .success then .awakeSynced else .unknownAsleep) ∧
    (i = .resync → t.commState = if t.result = .fatalCommFailure then .unknownAsleep else .awakeSynced) ∧
    (i = .sendAndReceive → t.result ≠ .fatalCommFailure → t.commState = .awakeSynced) ∧
    (i = .sendAndReceive → t.commState ≠ .deviceBusy)

/-- 42_framer.md R159, R162: SESSION_LOST is 1 after an operation exactly when a Resync in it returned
REWOKEN. -/
def Obligations.SessionLost : Prop :=
  ∀ (i : Instr) (s t : State), Ready s → exec i s = .next t →
    (canLoseSession i = false → t.status.sessionLost = false) ∧
    (illegal i s = true → t.status.sessionLost = false) ∧
    (i = .resync → (t.status.sessionLost = true ↔ t.result = .resyncedWithWakeup)) ∧
    (t.result = .resyncedWithWakeup → i = .resync) ∧
    (i = .sendAndReceive → illegal i s = false →
      (t.status.sessionLost = true ↔
        ∃ u ∈ Reference.resyncsOfExchange (Reference.started .sendAndReceive s), (Reference.resync u).1 = .rewoken))

/-- 40_transceiver.md R108, R112: RX_COUNT with each result of RECEIVE_BYTES. -/
def Obligations.ReceiveBytesOutcome : Prop :=
  ∀ s t : State, Ready s → s.argLen.toNat ≤ s.params.val.rxCapacity → exec .receiveBytes s = .next t →
    (t.result = .success ∧ t.rxCount = s.argLen) ∨
    (t.result = .rxTimeout ∧ t.rxCount = 0 ∧ 1 ≤ s.argLen.toNat) ∨
    (t.result = .rxPartial ∧ 1 ≤ t.rxCount.toNat ∧ t.rxCount.toNat < s.argLen.toNat)

/-- 42_framer.md R160, R152 and 30_encoding.md R78: RX_COUNT and the length byte with each result of
RECEIVE_FRAME. -/
def Obligations.ReceiveFrameOutcome : Prop :=
  ∀ s t : State, Inv s → Ready s → 4 ≤ s.argRspSize.toNat → s.argRspSize.toNat ≤ s.params.val.rxCapacity →
    exec .receiveFrame s = .next t →
    (t.result = .rxTimeout ∧ t.rxCount = 0) ∨
    (t.result = .invalidFrameSize ∧ t.rxCount = 1 ∧
      (t.rx.read 0 = 0xFF ∨ (t.rx.read 0).toNat < 4 ∨ s.argRspSize.toNat < (t.rx.read 0).toNat)) ∨
    (4 ≤ (t.rx.read 0).toNat ∧ (t.rx.read 0).toNat ≤ s.argRspSize.toNat ∧
      ((t.result = .rxPartial ∧ 1 ≤ t.rxCount.toNat ∧ t.rxCount.toNat < (t.rx.read 0).toNat) ∨
        (t.result = .success ∧ t.rxCount = t.rx.read 0)))

/-- 42_framer.md R153, R161: the wake response with each result of WAKEUP. -/
def Obligations.WakeupOutcome : Prop :=
  ∀ s t : State, Ready s → exec .wakeup s = .next t →
    (t.result = .rxTimeout ∧ t.rxCount = 0) ∨
    (t.result = .rxPartial ∧ 1 ≤ t.rxCount.toNat ∧ t.rxCount.toNat < 4) ∨
    (t.rxCount = 4 ∧
      t.result =
        if t.rx.read 0 ≠ 4 then .commFailure
        else if t.rx.read 1 ≠ s.params.val.wakeAck then .commFailure
        else if t.rx.read 2 ≠ s.params.val.wakeSigLo ∨ t.rx.read 3 ≠ s.params.val.wakeSigHi then .badChecksum
        else .success)

/-- 42_framer.md R156, R158, R163: the frame in RX with each result of SEND_AND_RECEIVE but
FATAL_COMM_FAILURE, and the CRC appended to the command frame. -/
def Obligations.SendAndReceiveOutcome : Prop :=
  ∀ s t : State, Inv s → Ready s → illegal .sendAndReceive s = false → exec .sendAndReceive s = .next t →
    t.crcResult = crc16 ((List.range ((s.tx.read 0).toNat - 2)).map s.tx.read) ∧
    t.tx.read ((s.tx.read 0).toNat - 2) = t.crcResult.extractLsb' 0 8 ∧
    t.tx.read ((s.tx.read 0).toNat - 1) = t.crcResult.extractLsb' 8 8 ∧
    (t.result ≠ .fatalCommFailure →
      4 ≤ (t.rx.read 0).toNat ∧ (t.rx.read 0).toNat ≤ s.argRspSize.toNat ∧
      t.rx.checkFrame s.argRspSize.toNat = .matched ∧
      (4 < (t.rx.read 0).toNat → t.result = .success) ∧
      ((t.rx.read 0).toNat = 4 →
        t.result = if t.rx.read 1 = s.params.val.stComm then .deviceCommStatus
          else statusResult s.params.val (t.rx.read 1)))

/-- 70_reset_and_hazards.md R224: every operation takes at most its bound; the last lines of R224 are exact. -/
def Obligations.DurationBounds : Prop :=
  ∀ (i : Instr) (s t : State), Ready s → illegal i s = false → exec i s = .next t →
    s.now ≤ t.now ∧ t.now ≤ s.now + Reference.operationBound i s ∧
    (i = .setSignal ∨ i = .crcCompute ∨ i = .crcAppend ∨ i = .crcCheckRx ∨ i = .crcCheckTx ∨ i = .wakePulse ∨
      i = .sendBytes ∨ i = .sleepByte → t.now = s.now + Reference.operationBound i s)

/-- 42_framer.md R165(a): a device that never pulls the line LOW gives FATAL_COMM_FAILURE, after one
transmission, the execution delay, N_POLL receive attempts of at least one increment, one resync
receive, one sleep byte, one wake pulse and the wait after the failed wakeup. -/
def Obligations.SilentDeviceIsFatal : Prop :=
  ∀ s : State, Ready s → illegal .sendAndReceive s = false → s.dev = [] →
    ∃ t, exec .sendAndReceive s = .next t ∧ t.result = .fatalCommFailure ∧ t.commState = .unknownAsleep ∧
      t.rxCount = 0 ∧ t.status.sessionLost = false ∧
      (let p := s.params.val
       let frame := (Reference.appendCrc s).tx.prefixBytes (Reference.appendCrc s).tx.frameLen
       let attempt := listDuration p p.rxPrefix + p.nStart * p.tSample
       t.now = s.now + listDuration p (p.cmdPrefix ++ frame) + 1000 * s.argExecDelay.toNat +
         s.nPoll * max p.tPoll attempt + p.tSyncTimeout + attempt + byteDuration p p.sleepByte +
         (p.tWakeLow + p.tWakeSettle) + attempt + p.tMaxExecDelay)

/-- 40_transceiver.md R107, R112 and RBIT-3, RBIT-4 of 95_test_vectors.md: RECEIVE_BYTES with a silent
device, and with a device that holds the line LOW. -/
def Obligations.ReceiveTimeouts : Prop :=
  ∀ s : State, Ready s → 1 ≤ s.argLen.toNat → s.argLen.toNat ≤ s.params.val.rxCapacity →
    (s.dev = [] →
      ∃ t, exec .receiveBytes s = .next t ∧ t.result = .rxTimeout ∧ t.rxCount = 0 ∧ t.driveLow = false ∧
        t.now = s.now + s.params.val.nStart * s.params.val.tSample) ∧
    ((∃ p ∈ s.dev, p.start ≤ s.now ∧ s.now + s.params.val.nRise * s.params.val.tSample < p.stop) →
      ∃ t, exec .receiveBytes s = .next t ∧ t.result = .rxTimeout ∧ t.rxCount = 0 ∧ t.driveLow = false ∧
        t.now = s.now + (1 + s.params.val.nRise) * s.params.val.tSample)

/-- 41_crc.md R134, R136, R137(a): CRC_APPEND on a frame whose length byte is n + 2, and then CRC_CHECK_TX,
gives SUCCESS with the same CRC_RESULT. -/
def Obligations.AppendThenCheck : Prop :=
  ∀ s : State, Inv s → Ready s → 1 ≤ s.argLen.toNat → s.argLen.toNat + 2 ≤ s.params.val.txCapacity →
    s.tx.read 0 = s.argLen + 2 →
    ∃ t u, exec .crcAppend s = .next t ∧ exec .crcCheckTx t = .next u ∧
      t.result = .success ∧ u.result = .success ∧ u.crcResult = t.crcResult ∧ u.tx = t.tx

/-- The step of an engine that runs nothing while the host's next access is not yet due: exactly the
access's wait passes, on `now` and on the waveform, and nothing else changes; while reset is
asserted the wait passes on the device's waveform alone (log 10); with no access to come, nothing
changes. That such a step lets the whole wait pass at once is the model's choice (log 12); that time
passes with the line as it is driven is 40_transceiver.md R102, 10_state.md R35. -/
def Obligations.IdleStepLetsTheWaitPass : Prop :=
  ∀ s : State, s.status.active = false →
    (s.host = [] → step s = .next s) ∧
    (∀ (e : HostEvent) (rest : List HostEvent), s.host = e :: rest → 0 < e.wait ∨ 0 < e.steps →
      (s.resetIn = false → step s = .next { s with
        now := s.now + e.wait
        trace := extendTrace s.trace s.driven e.wait
        host := ⟨0, 0, e.access⟩ :: rest }) ∧
      (s.resetIn = true → step s = .next { s with
        dev := rebase e.wait s.dev
        host := ⟨0, 0, e.access⟩ :: rest }))
end

