-- ==== Sys2Proof/Laws/State.lean ====
section
/-! SUPPORT. One lemma per field per update of State: what each named update leaves in each field. -/

namespace Sys2Proof.Machine

/-- The state with another sequencer: the form in which the laws of the procedures are stated. -/
def State.withSeq (q : Sequencer) (s : State) : State := { s with seq := q }

@[simp] theorem State.pass_params (d : Nat) (s : State) : (s.pass d).params = s.params := rfl
@[simp] theorem State.pass_cmd (d : Nat) (s : State) : (s.pass d).cmd = s.cmd := rfl
@[simp] theorem State.pass_status (d : Nat) (s : State) : (s.pass d).status = s.status := rfl
@[simp] theorem State.pass_result (d : Nat) (s : State) : (s.pass d).result = s.result := rfl
@[simp] theorem State.pass_argLen (d : Nat) (s : State) : (s.pass d).argLen = s.argLen := rfl
@[simp] theorem State.pass_argLevel (d : Nat) (s : State) : (s.pass d).argLevel = s.argLevel := rfl
@[simp] theorem State.pass_argRspSize (d : Nat) (s : State) : (s.pass d).argRspSize = s.argRspSize := rfl
@[simp] theorem State.pass_argExecDelay (d : Nat) (s : State) : (s.pass d).argExecDelay = s.argExecDelay := rfl
@[simp] theorem State.pass_argExecTimeout (d : Nat) (s : State) : (s.pass d).argExecTimeout = s.argExecTimeout := rfl
@[simp] theorem State.pass_crcResult (d : Nat) (s : State) : (s.pass d).crcResult = s.crcResult := rfl
@[simp] theorem State.pass_rxCount (d : Nat) (s : State) : (s.pass d).rxCount = s.rxCount := rfl
@[simp] theorem State.pass_commState (d : Nat) (s : State) : (s.pass d).commState = s.commState := rfl
@[simp] theorem State.pass_driveLow (d : Nat) (s : State) : (s.pass d).driveLow = s.driveLow := rfl
@[simp] theorem State.pass_now (d : Nat) (s : State) : (s.pass d).now = s.now + d := rfl
@[simp] theorem State.pass_tx (d : Nat) (s : State) : (s.pass d).tx = s.tx := rfl
@[simp] theorem State.pass_rx (d : Nat) (s : State) : (s.pass d).rx = s.rx := rfl
@[simp] theorem State.pass_crc (d : Nat) (s : State) : (s.pass d).crc = s.crc := rfl
@[simp] theorem State.pass_seq (d : Nat) (s : State) : (s.pass d).seq = s.seq := rfl
@[simp] theorem State.pass_dev (d : Nat) (s : State) : (s.pass d).dev = s.dev := rfl
@[simp] theorem State.pass_host (d : Nat) (s : State) : (s.pass d).host = hostAfter d s.host := rfl
@[simp] theorem State.pass_resetIn (d : Nat) (s : State) : (s.pass d).resetIn = s.resetIn := rfl
@[simp] theorem State.pass_trace (d : Nat) (s : State) : (s.pass d).trace = extendTrace s.trace s.driven d := rfl
@[simp] theorem State.pass_reads (d : Nat) (s : State) : (s.pass d).reads = s.reads := rfl
@[simp] theorem State.pass_freeCount (d : Nat) (s : State) : (s.pass d).freeCount = s.freeCount := rfl

@[simp] theorem State.setDrive_params (l : Level) (s : State) : (s.setDrive l).params = s.params := rfl
@[simp] theorem State.setDrive_cmd (l : Level) (s : State) : (s.setDrive l).cmd = s.cmd := rfl
@[simp] theorem State.setDrive_status (l : Level) (s : State) : (s.setDrive l).status = s.status := rfl
@[simp] theorem State.setDrive_result (l : Level) (s : State) : (s.setDrive l).result = s.result := rfl
@[simp] theorem State.setDrive_argLen (l : Level) (s : State) : (s.setDrive l).argLen = s.argLen := rfl
@[simp] theorem State.setDrive_argLevel (l : Level) (s : State) : (s.setDrive l).argLevel = s.argLevel := rfl
@[simp] theorem State.setDrive_argRspSize (l : Level) (s : State) : (s.setDrive l).argRspSize = s.argRspSize := rfl
@[simp] theorem State.setDrive_argExecDelay (l : Level) (s : State) : (s.setDrive l).argExecDelay = s.argExecDelay := rfl
@[simp] theorem State.setDrive_argExecTimeout (l : Level) (s : State) : (s.setDrive l).argExecTimeout = s.argExecTimeout := rfl
@[simp] theorem State.setDrive_crcResult (l : Level) (s : State) : (s.setDrive l).crcResult = s.crcResult := rfl
@[simp] theorem State.setDrive_rxCount (l : Level) (s : State) : (s.setDrive l).rxCount = s.rxCount := rfl
@[simp] theorem State.setDrive_commState (l : Level) (s : State) : (s.setDrive l).commState = s.commState := rfl
@[simp] theorem State.setDrive_driveLow (l : Level) (s : State) : (s.setDrive l).driveLow = (l == .low) := rfl
@[simp] theorem State.setDrive_now (l : Level) (s : State) : (s.setDrive l).now = s.now := rfl
@[simp] theorem State.setDrive_tx (l : Level) (s : State) : (s.setDrive l).tx = s.tx := rfl
@[simp] theorem State.setDrive_rx (l : Level) (s : State) : (s.setDrive l).rx = s.rx := rfl
@[simp] theorem State.setDrive_crc (l : Level) (s : State) : (s.setDrive l).crc = s.crc := rfl
@[simp] theorem State.setDrive_seq (l : Level) (s : State) : (s.setDrive l).seq = s.seq := rfl
@[simp] theorem State.setDrive_dev (l : Level) (s : State) : (s.setDrive l).dev = s.dev := rfl
@[simp] theorem State.setDrive_host (l : Level) (s : State) : (s.setDrive l).host = s.host := rfl
@[simp] theorem State.setDrive_resetIn (l : Level) (s : State) : (s.setDrive l).resetIn = s.resetIn := rfl
@[simp] theorem State.setDrive_trace (l : Level) (s : State) : (s.setDrive l).trace = s.trace := rfl
@[simp] theorem State.setDrive_reads (l : Level) (s : State) : (s.setDrive l).reads = s.reads := rfl
@[simp] theorem State.setDrive_freeCount (l : Level) (s : State) : (s.setDrive l).freeCount = s.freeCount := rfl

@[simp] theorem State.updSeq_params (f : Sequencer → Sequencer) (s : State) : (s.updSeq f).params = s.params := rfl
@[simp] theorem State.updSeq_cmd (f : Sequencer → Sequencer) (s : State) : (s.updSeq f).cmd = s.cmd := rfl
@[simp] theorem State.updSeq_status (f : Sequencer → Sequencer) (s : State) : (s.updSeq f).status = s.status := rfl
@[simp] theorem State.updSeq_result (f : Sequencer → Sequencer) (s : State) : (s.updSeq f).result = s.result := rfl
@[simp] theorem State.updSeq_argLen (f : Sequencer → Sequencer) (s : State) : (s.updSeq f).argLen = s.argLen := rfl
@[simp] theorem State.updSeq_argLevel (f : Sequencer → Sequencer) (s : State) : (s.updSeq f).argLevel = s.argLevel := rfl
@[simp] theorem State.updSeq_argRspSize (f : Sequencer → Sequencer) (s : State) : (s.updSeq f).argRspSize = s.argRspSize := rfl
@[simp] theorem State.updSeq_argExecDelay (f : Sequencer → Sequencer) (s : State) : (s.updSeq f).argExecDelay = s.argExecDelay := rfl
@[simp] theorem State.updSeq_argExecTimeout (f : Sequencer → Sequencer) (s : State) : (s.updSeq f).argExecTimeout = s.argExecTimeout := rfl
@[simp] theorem State.updSeq_crcResult (f : Sequencer → Sequencer) (s : State) : (s.updSeq f).crcResult = s.crcResult := rfl
@[simp] theorem State.updSeq_rxCount (f : Sequencer → Sequencer) (s : State) : (s.updSeq f).rxCount = s.rxCount := rfl
@[simp] theorem State.updSeq_commState (f : Sequencer → Sequencer) (s : State) : (s.updSeq f).commState = s.commState := rfl
@[simp] theorem State.updSeq_driveLow (f : Sequencer → Sequencer) (s : State) : (s.updSeq f).driveLow = s.driveLow := rfl
@[simp] theorem State.updSeq_now (f : Sequencer → Sequencer) (s : State) : (s.updSeq f).now = s.now := rfl
@[simp] theorem State.updSeq_tx (f : Sequencer → Sequencer) (s : State) : (s.updSeq f).tx = s.tx := rfl
@[simp] theorem State.updSeq_rx (f : Sequencer → Sequencer) (s : State) : (s.updSeq f).rx = s.rx := rfl
@[simp] theorem State.updSeq_crc (f : Sequencer → Sequencer) (s : State) : (s.updSeq f).crc = s.crc := rfl
@[simp] theorem State.updSeq_seq (f : Sequencer → Sequencer) (s : State) : (s.updSeq f).seq = f s.seq := rfl
@[simp] theorem State.updSeq_dev (f : Sequencer → Sequencer) (s : State) : (s.updSeq f).dev = s.dev := rfl
@[simp] theorem State.updSeq_host (f : Sequencer → Sequencer) (s : State) : (s.updSeq f).host = s.host := rfl
@[simp] theorem State.updSeq_resetIn (f : Sequencer → Sequencer) (s : State) : (s.updSeq f).resetIn = s.resetIn := rfl
@[simp] theorem State.updSeq_trace (f : Sequencer → Sequencer) (s : State) : (s.updSeq f).trace = s.trace := rfl
@[simp] theorem State.updSeq_reads (f : Sequencer → Sequencer) (s : State) : (s.updSeq f).reads = s.reads := rfl
@[simp] theorem State.updSeq_freeCount (f : Sequencer → Sequencer) (s : State) : (s.updSeq f).freeCount = s.freeCount := rfl

@[simp] theorem State.withSeq_params (q : Sequencer) (s : State) : (s.withSeq q).params = s.params := rfl
@[simp] theorem State.withSeq_cmd (q : Sequencer) (s : State) : (s.withSeq q).cmd = s.cmd := rfl
@[simp] theorem State.withSeq_status (q : Sequencer) (s : State) : (s.withSeq q).status = s.status := rfl
@[simp] theorem State.withSeq_result (q : Sequencer) (s : State) : (s.withSeq q).result = s.result := rfl
@[simp] theorem State.withSeq_argLen (q : Sequencer) (s : State) : (s.withSeq q).argLen = s.argLen := rfl
@[simp] theorem State.withSeq_argLevel (q : Sequencer) (s : State) : (s.withSeq q).argLevel = s.argLevel := rfl
@[simp] theorem State.withSeq_argRspSize (q : Sequencer) (s : State) : (s.withSeq q).argRspSize = s.argRspSize := rfl
@[simp] theorem State.withSeq_argExecDelay (q : Sequencer) (s : State) : (s.withSeq q).argExecDelay = s.argExecDelay := rfl
@[simp] theorem State.withSeq_argExecTimeout (q : Sequencer) (s : State) : (s.withSeq q).argExecTimeout = s.argExecTimeout := rfl
@[simp] theorem State.withSeq_crcResult (q : Sequencer) (s : State) : (s.withSeq q).crcResult = s.crcResult := rfl
@[simp] theorem State.withSeq_rxCount (q : Sequencer) (s : State) : (s.withSeq q).rxCount = s.rxCount := rfl
@[simp] theorem State.withSeq_commState (q : Sequencer) (s : State) : (s.withSeq q).commState = s.commState := rfl
@[simp] theorem State.withSeq_driveLow (q : Sequencer) (s : State) : (s.withSeq q).driveLow = s.driveLow := rfl
@[simp] theorem State.withSeq_now (q : Sequencer) (s : State) : (s.withSeq q).now = s.now := rfl
@[simp] theorem State.withSeq_tx (q : Sequencer) (s : State) : (s.withSeq q).tx = s.tx := rfl
@[simp] theorem State.withSeq_rx (q : Sequencer) (s : State) : (s.withSeq q).rx = s.rx := rfl
@[simp] theorem State.withSeq_crc (q : Sequencer) (s : State) : (s.withSeq q).crc = s.crc := rfl
@[simp] theorem State.withSeq_seq (q : Sequencer) (s : State) : (s.withSeq q).seq = q := rfl
@[simp] theorem State.withSeq_dev (q : Sequencer) (s : State) : (s.withSeq q).dev = s.dev := rfl
@[simp] theorem State.withSeq_host (q : Sequencer) (s : State) : (s.withSeq q).host = s.host := rfl
@[simp] theorem State.withSeq_resetIn (q : Sequencer) (s : State) : (s.withSeq q).resetIn = s.resetIn := rfl
@[simp] theorem State.withSeq_trace (q : Sequencer) (s : State) : (s.withSeq q).trace = s.trace := rfl
@[simp] theorem State.withSeq_reads (q : Sequencer) (s : State) : (s.withSeq q).reads = s.reads := rfl
@[simp] theorem State.withSeq_freeCount (q : Sequencer) (s : State) : (s.withSeq q).freeCount = s.freeCount := rfl

@[simp] theorem State.storeCrc_params (c : Word) (s : State) : (s.storeCrc c).params = s.params := rfl
@[simp] theorem State.storeCrc_cmd (c : Word) (s : State) : (s.storeCrc c).cmd = s.cmd := rfl
@[simp] theorem State.storeCrc_status (c : Word) (s : State) : (s.storeCrc c).status = s.status := rfl
@[simp] theorem State.storeCrc_result (c : Word) (s : State) : (s.storeCrc c).result = s.result := rfl
@[simp] theorem State.storeCrc_argLen (c : Word) (s : State) : (s.storeCrc c).argLen = s.argLen := rfl
@[simp] theorem State.storeCrc_argLevel (c : Word) (s : State) : (s.storeCrc c).argLevel = s.argLevel := rfl
@[simp] theorem State.storeCrc_argRspSize (c : Word) (s : State) : (s.storeCrc c).argRspSize = s.argRspSize := rfl
@[simp] theorem State.storeCrc_argExecDelay (c : Word) (s : State) : (s.storeCrc c).argExecDelay = s.argExecDelay := rfl
@[simp] theorem State.storeCrc_argExecTimeout (c : Word) (s : State) : (s.storeCrc c).argExecTimeout = s.argExecTimeout := rfl
@[simp] theorem State.storeCrc_crcResult (c : Word) (s : State) : (s.storeCrc c).crcResult = c := rfl
@[simp] theorem State.storeCrc_rxCount (c : Word) (s : State) : (s.storeCrc c).rxCount = s.rxCount := rfl
@[simp] theorem State.storeCrc_commState (c : Word) (s : State) : (s.storeCrc c).commState = s.commState := rfl
@[simp] theorem State.storeCrc_driveLow (c : Word) (s : State) : (s.storeCrc c).driveLow = s.driveLow := rfl
@[simp] theorem State.storeCrc_now (c : Word) (s : State) : (s.storeCrc c).now = s.now := rfl
@[simp] theorem State.storeCrc_tx (c : Word) (s : State) : (s.storeCrc c).tx = s.tx := rfl
@[simp] theorem State.storeCrc_rx (c : Word) (s : State) : (s.storeCrc c).rx = s.rx := rfl
@[simp] theorem State.storeCrc_crc (c : Word) (s : State) : (s.storeCrc c).crc = c := rfl
@[simp] theorem State.storeCrc_seq (c : Word) (s : State) : (s.storeCrc c).seq = s.seq := rfl
@[simp] theorem State.storeCrc_dev (c : Word) (s : State) : (s.storeCrc c).dev = s.dev := rfl
@[simp] theorem State.storeCrc_host (c : Word) (s : State) : (s.storeCrc c).host = s.host := rfl
@[simp] theorem State.storeCrc_resetIn (c : Word) (s : State) : (s.storeCrc c).resetIn = s.resetIn := rfl
@[simp] theorem State.storeCrc_trace (c : Word) (s : State) : (s.storeCrc c).trace = s.trace := rfl
@[simp] theorem State.storeCrc_reads (c : Word) (s : State) : (s.storeCrc c).reads = s.reads := rfl
@[simp] theorem State.storeCrc_freeCount (c : Word) (s : State) : (s.storeCrc c).freeCount = s.freeCount := rfl

@[simp] theorem State.zeroRx_params (n : Nat) (s : State) : (s.zeroRx n).params = s.params := rfl
@[simp] theorem State.zeroRx_cmd (n : Nat) (s : State) : (s.zeroRx n).cmd = s.cmd := rfl
@[simp] theorem State.zeroRx_status (n : Nat) (s : State) : (s.zeroRx n).status = s.status := rfl
@[simp] theorem State.zeroRx_result (n : Nat) (s : State) : (s.zeroRx n).result = s.result := rfl
@[simp] theorem State.zeroRx_argLen (n : Nat) (s : State) : (s.zeroRx n).argLen = s.argLen := rfl
@[simp] theorem State.zeroRx_argLevel (n : Nat) (s : State) : (s.zeroRx n).argLevel = s.argLevel := rfl
@[simp] theorem State.zeroRx_argRspSize (n : Nat) (s : State) : (s.zeroRx n).argRspSize = s.argRspSize := rfl
@[simp] theorem State.zeroRx_argExecDelay (n : Nat) (s : State) : (s.zeroRx n).argExecDelay = s.argExecDelay := rfl
@[simp] theorem State.zeroRx_argExecTimeout (n : Nat) (s : State) : (s.zeroRx n).argExecTimeout = s.argExecTimeout := rfl
@[simp] theorem State.zeroRx_crcResult (n : Nat) (s : State) : (s.zeroRx n).crcResult = s.crcResult := rfl
@[simp] theorem State.zeroRx_rxCount (n : Nat) (s : State) : (s.zeroRx n).rxCount = s.rxCount := rfl
@[simp] theorem State.zeroRx_commState (n : Nat) (s : State) : (s.zeroRx n).commState = s.commState := rfl
@[simp] theorem State.zeroRx_driveLow (n : Nat) (s : State) : (s.zeroRx n).driveLow = s.driveLow := rfl
@[simp] theorem State.zeroRx_now (n : Nat) (s : State) : (s.zeroRx n).now = s.now := rfl
@[simp] theorem State.zeroRx_tx (n : Nat) (s : State) : (s.zeroRx n).tx = s.tx := rfl
@[simp] theorem State.zeroRx_rx (n : Nat) (s : State) : (s.zeroRx n).rx = s.rx.zeroFill (min n s.params.val.rxCapacity) := rfl
@[simp] theorem State.zeroRx_crc (n : Nat) (s : State) : (s.zeroRx n).crc = s.crc := rfl
@[simp] theorem State.zeroRx_seq (n : Nat) (s : State) : (s.zeroRx n).seq = s.seq := rfl
@[simp] theorem State.zeroRx_dev (n : Nat) (s : State) : (s.zeroRx n).dev = s.dev := rfl
@[simp] theorem State.zeroRx_host (n : Nat) (s : State) : (s.zeroRx n).host = s.host := rfl
@[simp] theorem State.zeroRx_resetIn (n : Nat) (s : State) : (s.zeroRx n).resetIn = s.resetIn := rfl
@[simp] theorem State.zeroRx_trace (n : Nat) (s : State) : (s.zeroRx n).trace = s.trace := rfl
@[simp] theorem State.zeroRx_reads (n : Nat) (s : State) : (s.zeroRx n).reads = s.reads := rfl
@[simp] theorem State.zeroRx_freeCount (n : Nat) (s : State) : (s.zeroRx n).freeCount = s.freeCount := rfl

@[simp] theorem State.writeTx_params (i : Nat) (v : Byte) (s : State) : (s.writeTx i v).params = s.params := by
  unfold State.writeTx; split <;> rfl
@[simp] theorem State.writeTx_cmd (i : Nat) (v : Byte) (s : State) : (s.writeTx i v).cmd = s.cmd := by
  unfold State.writeTx; split <;> rfl
@[simp] theorem State.writeTx_status (i : Nat) (v : Byte) (s : State) : (s.writeTx i v).status = s.status := by
  unfold State.writeTx; split <;> rfl
@[simp] theorem State.writeTx_result (i : Nat) (v : Byte) (s : State) : (s.writeTx i v).result = s.result := by
  unfold State.writeTx; split <;> rfl
@[simp] theorem State.writeTx_argLen (i : Nat) (v : Byte) (s : State) : (s.writeTx i v).argLen = s.argLen := by
  unfold State.writeTx; split <;> rfl
@[simp] theorem State.writeTx_argLevel (i : Nat) (v : Byte) (s : State) : (s.writeTx i v).argLevel = s.argLevel := by
  unfold State.writeTx; split <;> rfl
@[simp] theorem State.writeTx_argRspSize (i : Nat) (v : Byte) (s : State) : (s.writeTx i v).argRspSize = s.argRspSize := by
  unfold State.writeTx; split <;> rfl
@[simp] theorem State.writeTx_argExecDelay (i : Nat) (v : Byte) (s : State) : (s.writeTx i v).argExecDelay = s.argExecDelay := by
  unfold State.writeTx; split <;> rfl
@[simp] theorem State.writeTx_argExecTimeout (i : Nat) (v : Byte) (s : State) : (s.writeTx i v).argExecTimeout = s.argExecTimeout := by
  unfold State.writeTx; split <;> rfl
@[simp] theorem State.writeTx_crcResult (i : Nat) (v : Byte) (s : State) : (s.writeTx i v).crcResult = s.crcResult := by
  unfold State.writeTx; split <;> rfl
@[simp] theorem State.writeTx_rxCount (i : Nat) (v : Byte) (s : State) : (s.writeTx i v).rxCount = s.rxCount := by
  unfold State.writeTx; split <;> rfl
@[simp] theorem State.writeTx_commState (i : Nat) (v : Byte) (s : State) : (s.writeTx i v).commState = s.commState := by
  unfold State.writeTx; split <;> rfl
@[simp] theorem State.writeTx_driveLow (i : Nat) (v : Byte) (s : State) : (s.writeTx i v).driveLow = s.driveLow := by
  unfold State.writeTx; split <;> rfl
@[simp] theorem State.writeTx_now (i : Nat) (v : Byte) (s : State) : (s.writeTx i v).now = s.now := by
  unfold State.writeTx; split <;> rfl
@[simp] theorem State.writeTx_rx (i : Nat) (v : Byte) (s : State) : (s.writeTx i v).rx = s.rx := by
  unfold State.writeTx; split <;> rfl
@[simp] theorem State.writeTx_crc (i : Nat) (v : Byte) (s : State) : (s.writeTx i v).crc = s.crc := by
  unfold State.writeTx; split <;> rfl
@[simp] theorem State.writeTx_seq (i : Nat) (v : Byte) (s : State) : (s.writeTx i v).seq = s.seq := by
  unfold State.writeTx; split <;> rfl
@[simp] theorem State.writeTx_dev (i : Nat) (v : Byte) (s : State) : (s.writeTx i v).dev = s.dev := by
  unfold State.writeTx; split <;> rfl
@[simp] theorem State.writeTx_host (i : Nat) (v : Byte) (s : State) : (s.writeTx i v).host = s.host := by
  unfold State.writeTx; split <;> rfl
@[simp] theorem State.writeTx_resetIn (i : Nat) (v : Byte) (s : State) : (s.writeTx i v).resetIn = s.resetIn := by
  unfold State.writeTx; split <;> rfl
@[simp] theorem State.writeTx_trace (i : Nat) (v : Byte) (s : State) : (s.writeTx i v).trace = s.trace := by
  unfold State.writeTx; split <;> rfl
@[simp] theorem State.writeTx_reads (i : Nat) (v : Byte) (s : State) : (s.writeTx i v).reads = s.reads := by
  unfold State.writeTx; split <;> rfl
@[simp] theorem State.writeTx_freeCount (i : Nat) (v : Byte) (s : State) : (s.writeTx i v).freeCount = s.freeCount := by
  unfold State.writeTx; split <;> rfl

@[simp] theorem State.writeRx_params (i : Nat) (v : Byte) (s : State) : (s.writeRx i v).params = s.params := by
  unfold State.writeRx; split <;> rfl
@[simp] theorem State.writeRx_cmd (i : Nat) (v : Byte) (s : State) : (s.writeRx i v).cmd = s.cmd := by
  unfold State.writeRx; split <;> rfl
@[simp] theorem State.writeRx_status (i : Nat) (v : Byte) (s : State) : (s.writeRx i v).status = s.status := by
  unfold State.writeRx; split <;> rfl
@[simp] theorem State.writeRx_result (i : Nat) (v : Byte) (s : State) : (s.writeRx i v).result = s.result := by
  unfold State.writeRx; split <;> rfl
@[simp] theorem State.writeRx_argLen (i : Nat) (v : Byte) (s : State) : (s.writeRx i v).argLen = s.argLen := by
  unfold State.writeRx; split <;> rfl
@[simp] theorem State.writeRx_argLevel (i : Nat) (v : Byte) (s : State) : (s.writeRx i v).argLevel = s.argLevel := by
  unfold State.writeRx; split <;> rfl
@[simp] theorem State.writeRx_argRspSize (i : Nat) (v : Byte) (s : State) : (s.writeRx i v).argRspSize = s.argRspSize := by
  unfold State.writeRx; split <;> rfl
@[simp] theorem State.writeRx_argExecDelay (i : Nat) (v : Byte) (s : State) : (s.writeRx i v).argExecDelay = s.argExecDelay := by
  unfold State.writeRx; split <;> rfl
@[simp] theorem State.writeRx_argExecTimeout (i : Nat) (v : Byte) (s : State) : (s.writeRx i v).argExecTimeout = s.argExecTimeout := by
  unfold State.writeRx; split <;> rfl
@[simp] theorem State.writeRx_crcResult (i : Nat) (v : Byte) (s : State) : (s.writeRx i v).crcResult = s.crcResult := by
  unfold State.writeRx; split <;> rfl
@[simp] theorem State.writeRx_rxCount (i : Nat) (v : Byte) (s : State) : (s.writeRx i v).rxCount = s.rxCount := by
  unfold State.writeRx; split <;> rfl
@[simp] theorem State.writeRx_commState (i : Nat) (v : Byte) (s : State) : (s.writeRx i v).commState = s.commState := by
  unfold State.writeRx; split <;> rfl
@[simp] theorem State.writeRx_driveLow (i : Nat) (v : Byte) (s : State) : (s.writeRx i v).driveLow = s.driveLow := by
  unfold State.writeRx; split <;> rfl
@[simp] theorem State.writeRx_now (i : Nat) (v : Byte) (s : State) : (s.writeRx i v).now = s.now := by
  unfold State.writeRx; split <;> rfl
@[simp] theorem State.writeRx_tx (i : Nat) (v : Byte) (s : State) : (s.writeRx i v).tx = s.tx := by
  unfold State.writeRx; split <;> rfl
@[simp] theorem State.writeRx_crc (i : Nat) (v : Byte) (s : State) : (s.writeRx i v).crc = s.crc := by
  unfold State.writeRx; split <;> rfl
@[simp] theorem State.writeRx_seq (i : Nat) (v : Byte) (s : State) : (s.writeRx i v).seq = s.seq := by
  unfold State.writeRx; split <;> rfl
@[simp] theorem State.writeRx_dev (i : Nat) (v : Byte) (s : State) : (s.writeRx i v).dev = s.dev := by
  unfold State.writeRx; split <;> rfl
@[simp] theorem State.writeRx_host (i : Nat) (v : Byte) (s : State) : (s.writeRx i v).host = s.host := by
  unfold State.writeRx; split <;> rfl
@[simp] theorem State.writeRx_resetIn (i : Nat) (v : Byte) (s : State) : (s.writeRx i v).resetIn = s.resetIn := by
  unfold State.writeRx; split <;> rfl
@[simp] theorem State.writeRx_trace (i : Nat) (v : Byte) (s : State) : (s.writeRx i v).trace = s.trace := by
  unfold State.writeRx; split <;> rfl
@[simp] theorem State.writeRx_reads (i : Nat) (v : Byte) (s : State) : (s.writeRx i v).reads = s.reads := by
  unfold State.writeRx; split <;> rfl
@[simp] theorem State.writeRx_freeCount (i : Nat) (v : Byte) (s : State) : (s.writeRx i v).freeCount = s.freeCount := by
  unfold State.writeRx; split <;> rfl

@[simp] theorem State.writeTxCrc_params (i : Nat) (c : Word) (s : State) : (s.writeTxCrc i c).params = s.params := by simp [State.writeTxCrc]
@[simp] theorem State.writeTxCrc_cmd (i : Nat) (c : Word) (s : State) : (s.writeTxCrc i c).cmd = s.cmd := by simp [State.writeTxCrc]
@[simp] theorem State.writeTxCrc_status (i : Nat) (c : Word) (s : State) : (s.writeTxCrc i c).status = s.status := by simp [State.writeTxCrc]
@[simp] theorem State.writeTxCrc_result (i : Nat) (c : Word) (s : State) : (s.writeTxCrc i c).result = s.result := by simp [State.writeTxCrc]
@[simp] theorem State.writeTxCrc_argLen (i : Nat) (c : Word) (s : State) : (s.writeTxCrc i c).argLen = s.argLen := by simp [State.writeTxCrc]
@[simp] theorem State.writeTxCrc_argLevel (i : Nat) (c : Word) (s : State) : (s.writeTxCrc i c).argLevel = s.argLevel := by simp [State.writeTxCrc]
@[simp] theorem State.writeTxCrc_argRspSize (i : Nat) (c : Word) (s : State) : (s.writeTxCrc i c).argRspSize = s.argRspSize := by simp [State.writeTxCrc]
@[simp] theorem State.writeTxCrc_argExecDelay (i : Nat) (c : Word) (s : State) : (s.writeTxCrc i c).argExecDelay = s.argExecDelay := by simp [State.writeTxCrc]
@[simp] theorem State.writeTxCrc_argExecTimeout (i : Nat) (c : Word) (s : State) : (s.writeTxCrc i c).argExecTimeout = s.argExecTimeout := by simp [State.writeTxCrc]
@[simp] theorem State.writeTxCrc_crcResult (i : Nat) (c : Word) (s : State) : (s.writeTxCrc i c).crcResult = s.crcResult := by simp [State.writeTxCrc]
@[simp] theorem State.writeTxCrc_rxCount (i : Nat) (c : Word) (s : State) : (s.writeTxCrc i c).rxCount = s.rxCount := by simp [State.writeTxCrc]
@[simp] theorem State.writeTxCrc_commState (i : Nat) (c : Word) (s : State) : (s.writeTxCrc i c).commState = s.commState := by simp [State.writeTxCrc]
@[simp] theorem State.writeTxCrc_driveLow (i : Nat) (c : Word) (s : State) : (s.writeTxCrc i c).driveLow = s.driveLow := by simp [State.writeTxCrc]
@[simp] theorem State.writeTxCrc_now (i : Nat) (c : Word) (s : State) : (s.writeTxCrc i c).now = s.now := by simp [State.writeTxCrc]
@[simp] theorem State.writeTxCrc_rx (i : Nat) (c : Word) (s : State) : (s.writeTxCrc i c).rx = s.rx := by simp [State.writeTxCrc]
@[simp] theorem State.writeTxCrc_crc (i : Nat) (c : Word) (s : State) : (s.writeTxCrc i c).crc = s.crc := by simp [State.writeTxCrc]
@[simp] theorem State.writeTxCrc_seq (i : Nat) (c : Word) (s : State) : (s.writeTxCrc i c).seq = s.seq := by simp [State.writeTxCrc]
@[simp] theorem State.writeTxCrc_dev (i : Nat) (c : Word) (s : State) : (s.writeTxCrc i c).dev = s.dev := by simp [State.writeTxCrc]
@[simp] theorem State.writeTxCrc_host (i : Nat) (c : Word) (s : State) : (s.writeTxCrc i c).host = s.host := by simp [State.writeTxCrc]
@[simp] theorem State.writeTxCrc_resetIn (i : Nat) (c : Word) (s : State) : (s.writeTxCrc i c).resetIn = s.resetIn := by simp [State.writeTxCrc]
@[simp] theorem State.writeTxCrc_trace (i : Nat) (c : Word) (s : State) : (s.writeTxCrc i c).trace = s.trace := by simp [State.writeTxCrc]
@[simp] theorem State.writeTxCrc_reads (i : Nat) (c : Word) (s : State) : (s.writeTxCrc i c).reads = s.reads := by simp [State.writeTxCrc]
@[simp] theorem State.writeTxCrc_freeCount (i : Nat) (c : Word) (s : State) : (s.writeTxCrc i c).freeCount = s.freeCount := by simp [State.writeTxCrc]

@[simp] theorem State.orRxBit_params (i k : Nat) (s : State) : (s.orRxBit i k).params = s.params := by simp [State.orRxBit]
@[simp] theorem State.orRxBit_cmd (i k : Nat) (s : State) : (s.orRxBit i k).cmd = s.cmd := by simp [State.orRxBit]
@[simp] theorem State.orRxBit_status (i k : Nat) (s : State) : (s.orRxBit i k).status = s.status := by simp [State.orRxBit]
@[simp] theorem State.orRxBit_result (i k : Nat) (s : State) : (s.orRxBit i k).result = s.result := by simp [State.orRxBit]
@[simp] theorem State.orRxBit_argLen (i k : Nat) (s : State) : (s.orRxBit i k).argLen = s.argLen := by simp [State.orRxBit]
@[simp] theorem State.orRxBit_argLevel (i k : Nat) (s : State) : (s.orRxBit i k).argLevel = s.argLevel := by simp [State.orRxBit]
@[simp] theorem State.orRxBit_argRspSize (i k : Nat) (s : State) : (s.orRxBit i k).argRspSize = s.argRspSize := by simp [State.orRxBit]
@[simp] theorem State.orRxBit_argExecDelay (i k : Nat) (s : State) : (s.orRxBit i k).argExecDelay = s.argExecDelay := by simp [State.orRxBit]
@[simp] theorem State.orRxBit_argExecTimeout (i k : Nat) (s : State) : (s.orRxBit i k).argExecTimeout = s.argExecTimeout := by simp [State.orRxBit]
@[simp] theorem State.orRxBit_crcResult (i k : Nat) (s : State) : (s.orRxBit i k).crcResult = s.crcResult := by simp [State.orRxBit]
@[simp] theorem State.orRxBit_rxCount (i k : Nat) (s : State) : (s.orRxBit i k).rxCount = s.rxCount := by simp [State.orRxBit]
@[simp] theorem State.orRxBit_commState (i k : Nat) (s : State) : (s.orRxBit i k).commState = s.commState := by simp [State.orRxBit]
@[simp] theorem State.orRxBit_driveLow (i k : Nat) (s : State) : (s.orRxBit i k).driveLow = s.driveLow := by simp [State.orRxBit]
@[simp] theorem State.orRxBit_now (i k : Nat) (s : State) : (s.orRxBit i k).now = s.now := by simp [State.orRxBit]
@[simp] theorem State.orRxBit_tx (i k : Nat) (s : State) : (s.orRxBit i k).tx = s.tx := by simp [State.orRxBit]
@[simp] theorem State.orRxBit_crc (i k : Nat) (s : State) : (s.orRxBit i k).crc = s.crc := by simp [State.orRxBit]
@[simp] theorem State.orRxBit_seq (i k : Nat) (s : State) : (s.orRxBit i k).seq = s.seq := by simp [State.orRxBit]
@[simp] theorem State.orRxBit_dev (i k : Nat) (s : State) : (s.orRxBit i k).dev = s.dev := by simp [State.orRxBit]
@[simp] theorem State.orRxBit_host (i k : Nat) (s : State) : (s.orRxBit i k).host = s.host := by simp [State.orRxBit]
@[simp] theorem State.orRxBit_resetIn (i k : Nat) (s : State) : (s.orRxBit i k).resetIn = s.resetIn := by simp [State.orRxBit]
@[simp] theorem State.orRxBit_trace (i k : Nat) (s : State) : (s.orRxBit i k).trace = s.trace := by simp [State.orRxBit]
@[simp] theorem State.orRxBit_reads (i k : Nat) (s : State) : (s.orRxBit i k).reads = s.reads := by simp [State.orRxBit]
@[simp] theorem State.orRxBit_freeCount (i k : Nat) (s : State) : (s.orRxBit i k).freeCount = s.freeCount := by simp [State.orRxBit]

@[simp] theorem State.tick_params (s : State) : s.tick.params = s.params := by
  unfold State.tick; split <;> (try split) <;> rfl
@[simp] theorem State.tick_cmd (s : State) : s.tick.cmd = s.cmd := by
  unfold State.tick; split <;> (try split) <;> rfl
@[simp] theorem State.tick_status (s : State) : s.tick.status = s.status := by
  unfold State.tick; split <;> (try split) <;> rfl
@[simp] theorem State.tick_result (s : State) : s.tick.result = s.result := by
  unfold State.tick; split <;> (try split) <;> rfl
@[simp] theorem State.tick_argLen (s : State) : s.tick.argLen = s.argLen := by
  unfold State.tick; split <;> (try split) <;> rfl
@[simp] theorem State.tick_argLevel (s : State) : s.tick.argLevel = s.argLevel := by
  unfold State.tick; split <;> (try split) <;> rfl
@[simp] theorem State.tick_argRspSize (s : State) : s.tick.argRspSize = s.argRspSize := by
  unfold State.tick; split <;> (try split) <;> rfl
@[simp] theorem State.tick_argExecDelay (s : State) : s.tick.argExecDelay = s.argExecDelay := by
  unfold State.tick; split <;> (try split) <;> rfl
@[simp] theorem State.tick_argExecTimeout (s : State) : s.tick.argExecTimeout = s.argExecTimeout := by
  unfold State.tick; split <;> (try split) <;> rfl
@[simp] theorem State.tick_crcResult (s : State) : s.tick.crcResult = s.crcResult := by
  unfold State.tick; split <;> (try split) <;> rfl
@[simp] theorem State.tick_rxCount (s : State) : s.tick.rxCount = s.rxCount := by
  unfold State.tick; split <;> (try split) <;> rfl
@[simp] theorem State.tick_commState (s : State) : s.tick.commState = s.commState := by
  unfold State.tick; split <;> (try split) <;> rfl
@[simp] theorem State.tick_driveLow (s : State) : s.tick.driveLow = s.driveLow := by
  unfold State.tick; split <;> (try split) <;> rfl
@[simp] theorem State.tick_now (s : State) : s.tick.now = s.now := by
  unfold State.tick; split <;> (try split) <;> rfl
@[simp] theorem State.tick_tx (s : State) : s.tick.tx = s.tx := by
  unfold State.tick; split <;> (try split) <;> rfl
@[simp] theorem State.tick_rx (s : State) : s.tick.rx = s.rx := by
  unfold State.tick; split <;> (try split) <;> rfl
@[simp] theorem State.tick_crc (s : State) : s.tick.crc = s.crc := by
  unfold State.tick; split <;> (try split) <;> rfl
@[simp] theorem State.tick_seq (s : State) : s.tick.seq = s.seq := by
  unfold State.tick; split <;> (try split) <;> rfl
@[simp] theorem State.tick_dev (s : State) : s.tick.dev = s.dev := by
  unfold State.tick; split <;> (try split) <;> rfl
@[simp] theorem State.tick_resetIn (s : State) : s.tick.resetIn = s.resetIn := by
  unfold State.tick; split <;> (try split) <;> rfl
@[simp] theorem State.tick_trace (s : State) : s.tick.trace = s.trace := by
  unfold State.tick; split <;> (try split) <;> rfl
@[simp] theorem State.tick_reads (s : State) : s.tick.reads = s.reads := by
  unfold State.tick; split <;> (try split) <;> rfl
@[simp] theorem State.tick_freeCount (s : State) : s.tick.freeCount = s.freeCount := by
  unfold State.tick; split <;> (try split) <;> rfl

@[simp] theorem State.accept_params (c : Byte) (op : Option Instr) (k : Stmt) (s : State) : (s.accept c op k).params = s.params := rfl
@[simp] theorem State.accept_cmd (c : Byte) (op : Option Instr) (k : Stmt) (s : State) : (s.accept c op k).cmd = c := rfl
@[simp] theorem State.accept_status (c : Byte) (op : Option Instr) (k : Stmt) (s : State) : (s.accept c op k).status = ⟨true, false, false, false⟩ := rfl
@[simp] theorem State.accept_result (c : Byte) (op : Option Instr) (k : Stmt) (s : State) : (s.accept c op k).result = s.result := rfl
@[simp] theorem State.accept_argLen (c : Byte) (op : Option Instr) (k : Stmt) (s : State) : (s.accept c op k).argLen = s.argLen := rfl
@[simp] theorem State.accept_argLevel (c : Byte) (op : Option Instr) (k : Stmt) (s : State) : (s.accept c op k).argLevel = s.argLevel := rfl
@[simp] theorem State.accept_argRspSize (c : Byte) (op : Option Instr) (k : Stmt) (s : State) : (s.accept c op k).argRspSize = s.argRspSize := rfl
@[simp] theorem State.accept_argExecDelay (c : Byte) (op : Option Instr) (k : Stmt) (s : State) : (s.accept c op k).argExecDelay = s.argExecDelay := rfl
@[simp] theorem State.accept_argExecTimeout (c : Byte) (op : Option Instr) (k : Stmt) (s : State) : (s.accept c op k).argExecTimeout = s.argExecTimeout := rfl
@[simp] theorem State.accept_crcResult (c : Byte) (op : Option Instr) (k : Stmt) (s : State) : (s.accept c op k).crcResult = s.crcResult := rfl
@[simp] theorem State.accept_rxCount (c : Byte) (op : Option Instr) (k : Stmt) (s : State) : (s.accept c op k).rxCount = s.rxCount := rfl
@[simp] theorem State.accept_commState (c : Byte) (op : Option Instr) (k : Stmt) (s : State) : (s.accept c op k).commState = s.commState := rfl
@[simp] theorem State.accept_driveLow (c : Byte) (op : Option Instr) (k : Stmt) (s : State) : (s.accept c op k).driveLow = s.driveLow := rfl
@[simp] theorem State.accept_now (c : Byte) (op : Option Instr) (k : Stmt) (s : State) : (s.accept c op k).now = s.now := rfl
@[simp] theorem State.accept_tx (c : Byte) (op : Option Instr) (k : Stmt) (s : State) : (s.accept c op k).tx = s.tx := rfl
@[simp] theorem State.accept_rx (c : Byte) (op : Option Instr) (k : Stmt) (s : State) : (s.accept c op k).rx = s.rx := rfl
@[simp] theorem State.accept_crc (c : Byte) (op : Option Instr) (k : Stmt) (s : State) : (s.accept c op k).crc = s.crc := rfl
@[simp] theorem State.accept_seq (c : Byte) (op : Option Instr) (k : Stmt) (s : State) : (s.accept c op k).seq = { Sequencer.idle with op := op, code := k } := rfl
@[simp] theorem State.accept_dev (c : Byte) (op : Option Instr) (k : Stmt) (s : State) : (s.accept c op k).dev = s.dev := rfl
@[simp] theorem State.accept_host (c : Byte) (op : Option Instr) (k : Stmt) (s : State) : (s.accept c op k).host = s.host := rfl
@[simp] theorem State.accept_resetIn (c : Byte) (op : Option Instr) (k : Stmt) (s : State) : (s.accept c op k).resetIn = s.resetIn := rfl
@[simp] theorem State.accept_trace (c : Byte) (op : Option Instr) (k : Stmt) (s : State) : (s.accept c op k).trace = s.trace := rfl
@[simp] theorem State.accept_reads (c : Byte) (op : Option Instr) (k : Stmt) (s : State) : (s.accept c op k).reads = s.reads := rfl
@[simp] theorem State.accept_freeCount (c : Byte) (op : Option Instr) (k : Stmt) (s : State) : (s.accept c op k).freeCount = s.freeCount := rfl

@[simp] theorem State.finish_params (c : ResultCode) (s : State) : (s.finish c).params = s.params := rfl
@[simp] theorem State.finish_cmd (c : ResultCode) (s : State) : (s.finish c).cmd = s.cmd := rfl
@[simp] theorem State.finish_status (c : ResultCode) (s : State) : (s.finish c).status = { s.status with done := true, active := false } := rfl
@[simp] theorem State.finish_result (c : ResultCode) (s : State) : (s.finish c).result = c := rfl
@[simp] theorem State.finish_argLen (c : ResultCode) (s : State) : (s.finish c).argLen = s.argLen := rfl
@[simp] theorem State.finish_argLevel (c : ResultCode) (s : State) : (s.finish c).argLevel = s.argLevel := rfl
@[simp] theorem State.finish_argRspSize (c : ResultCode) (s : State) : (s.finish c).argRspSize = s.argRspSize := rfl
@[simp] theorem State.finish_argExecDelay (c : ResultCode) (s : State) : (s.finish c).argExecDelay = s.argExecDelay := rfl
@[simp] theorem State.finish_argExecTimeout (c : ResultCode) (s : State) : (s.finish c).argExecTimeout = s.argExecTimeout := rfl
@[simp] theorem State.finish_crcResult (c : ResultCode) (s : State) : (s.finish c).crcResult = s.crcResult := rfl
@[simp] theorem State.finish_rxCount (c : ResultCode) (s : State) : (s.finish c).rxCount = s.rxCount := rfl
@[simp] theorem State.finish_commState (c : ResultCode) (s : State) : (s.finish c).commState = s.commState := rfl
@[simp] theorem State.finish_driveLow (c : ResultCode) (s : State) : (s.finish c).driveLow = s.driveLow := rfl
@[simp] theorem State.finish_now (c : ResultCode) (s : State) : (s.finish c).now = s.now := rfl
@[simp] theorem State.finish_tx (c : ResultCode) (s : State) : (s.finish c).tx = s.tx := rfl
@[simp] theorem State.finish_rx (c : ResultCode) (s : State) : (s.finish c).rx = s.rx := rfl
@[simp] theorem State.finish_crc (c : ResultCode) (s : State) : (s.finish c).crc = s.crc := rfl
@[simp] theorem State.finish_seq (c : ResultCode) (s : State) : (s.finish c).seq = Sequencer.idle := rfl
@[simp] theorem State.finish_dev (c : ResultCode) (s : State) : (s.finish c).dev = s.dev := rfl
@[simp] theorem State.finish_host (c : ResultCode) (s : State) : (s.finish c).host = s.host := rfl
@[simp] theorem State.finish_resetIn (c : ResultCode) (s : State) : (s.finish c).resetIn = s.resetIn := rfl
@[simp] theorem State.finish_trace (c : ResultCode) (s : State) : (s.finish c).trace = s.trace := rfl
@[simp] theorem State.finish_reads (c : ResultCode) (s : State) : (s.finish c).reads = s.reads := rfl
@[simp] theorem State.finish_freeCount (c : ResultCode) (s : State) : (s.finish c).freeCount = s.freeCount := rfl

@[simp] theorem State.rejectCmd_params (s : State) : s.rejectCmd.params = s.params := rfl
@[simp] theorem State.rejectCmd_cmd (s : State) : s.rejectCmd.cmd = s.cmd := rfl
@[simp] theorem State.rejectCmd_status (s : State) : s.rejectCmd.status = { s.status with cmdRejected := true } := rfl
@[simp] theorem State.rejectCmd_result (s : State) : s.rejectCmd.result = s.result := rfl
@[simp] theorem State.rejectCmd_argLen (s : State) : s.rejectCmd.argLen = s.argLen := rfl
@[simp] theorem State.rejectCmd_argLevel (s : State) : s.rejectCmd.argLevel = s.argLevel := rfl
@[simp] theorem State.rejectCmd_argRspSize (s : State) : s.rejectCmd.argRspSize = s.argRspSize := rfl
@[simp] theorem State.rejectCmd_argExecDelay (s : State) : s.rejectCmd.argExecDelay = s.argExecDelay := rfl
@[simp] theorem State.rejectCmd_argExecTimeout (s : State) : s.rejectCmd.argExecTimeout = s.argExecTimeout := rfl
@[simp] theorem State.rejectCmd_crcResult (s : State) : s.rejectCmd.crcResult = s.crcResult := rfl
@[simp] theorem State.rejectCmd_rxCount (s : State) : s.rejectCmd.rxCount = s.rxCount := rfl
@[simp] theorem State.rejectCmd_commState (s : State) : s.rejectCmd.commState = s.commState := rfl
@[simp] theorem State.rejectCmd_driveLow (s : State) : s.rejectCmd.driveLow = s.driveLow := rfl
@[simp] theorem State.rejectCmd_now (s : State) : s.rejectCmd.now = s.now := rfl
@[simp] theorem State.rejectCmd_tx (s : State) : s.rejectCmd.tx = s.tx := rfl
@[simp] theorem State.rejectCmd_rx (s : State) : s.rejectCmd.rx = s.rx := rfl
@[simp] theorem State.rejectCmd_crc (s : State) : s.rejectCmd.crc = s.crc := rfl
@[simp] theorem State.rejectCmd_seq (s : State) : s.rejectCmd.seq = s.seq := rfl
@[simp] theorem State.rejectCmd_dev (s : State) : s.rejectCmd.dev = s.dev := rfl
@[simp] theorem State.rejectCmd_host (s : State) : s.rejectCmd.host = s.host := rfl
@[simp] theorem State.rejectCmd_resetIn (s : State) : s.rejectCmd.resetIn = s.resetIn := rfl
@[simp] theorem State.rejectCmd_trace (s : State) : s.rejectCmd.trace = s.trace := rfl
@[simp] theorem State.rejectCmd_reads (s : State) : s.rejectCmd.reads = s.reads := rfl
@[simp] theorem State.rejectCmd_freeCount (s : State) : s.rejectCmd.freeCount = s.freeCount := rfl

@[simp] theorem State.releaseReset_params (s : State) : s.releaseReset.params = s.params := rfl
@[simp] theorem State.releaseReset_cmd (s : State) : s.releaseReset.cmd = s.cmd := rfl
@[simp] theorem State.releaseReset_status (s : State) : s.releaseReset.status = s.status := rfl
@[simp] theorem State.releaseReset_result (s : State) : s.releaseReset.result = s.result := rfl
@[simp] theorem State.releaseReset_argLen (s : State) : s.releaseReset.argLen = s.argLen := rfl
@[simp] theorem State.releaseReset_argLevel (s : State) : s.releaseReset.argLevel = s.argLevel := rfl
@[simp] theorem State.releaseReset_argRspSize (s : State) : s.releaseReset.argRspSize = s.argRspSize := rfl
@[simp] theorem State.releaseReset_argExecDelay (s : State) : s.releaseReset.argExecDelay = s.argExecDelay := rfl
@[simp] theorem State.releaseReset_argExecTimeout (s : State) : s.releaseReset.argExecTimeout = s.argExecTimeout := rfl
@[simp] theorem State.releaseReset_crcResult (s : State) : s.releaseReset.crcResult = s.crcResult := rfl
@[simp] theorem State.releaseReset_rxCount (s : State) : s.releaseReset.rxCount = s.rxCount := rfl
@[simp] theorem State.releaseReset_commState (s : State) : s.releaseReset.commState = s.commState := rfl
@[simp] theorem State.releaseReset_driveLow (s : State) : s.releaseReset.driveLow = s.driveLow := rfl
@[simp] theorem State.releaseReset_now (s : State) : s.releaseReset.now = s.now := rfl
@[simp] theorem State.releaseReset_tx (s : State) : s.releaseReset.tx = s.tx := rfl
@[simp] theorem State.releaseReset_rx (s : State) : s.releaseReset.rx = s.rx := rfl
@[simp] theorem State.releaseReset_crc (s : State) : s.releaseReset.crc = s.crc := rfl
@[simp] theorem State.releaseReset_seq (s : State) : s.releaseReset.seq = s.seq := rfl
@[simp] theorem State.releaseReset_dev (s : State) : s.releaseReset.dev = s.dev := rfl
@[simp] theorem State.releaseReset_host (s : State) : s.releaseReset.host = s.host := rfl
@[simp] theorem State.releaseReset_resetIn (s : State) : s.releaseReset.resetIn = false := rfl
@[simp] theorem State.releaseReset_trace (s : State) : s.releaseReset.trace = s.trace := rfl
@[simp] theorem State.releaseReset_reads (s : State) : s.releaseReset.reads = s.reads := rfl
@[simp] theorem State.releaseReset_freeCount (s : State) : s.releaseReset.freeCount = s.freeCount := rfl

@[simp] theorem State.passInReset_params (d : Nat) (s : State) : (s.passInReset d).params = s.params := rfl
@[simp] theorem State.passInReset_cmd (d : Nat) (s : State) : (s.passInReset d).cmd = s.cmd := rfl
@[simp] theorem State.passInReset_status (d : Nat) (s : State) : (s.passInReset d).status = s.status := rfl
@[simp] theorem State.passInReset_result (d : Nat) (s : State) : (s.passInReset d).result = s.result := rfl
@[simp] theorem State.passInReset_argLen (d : Nat) (s : State) : (s.passInReset d).argLen = s.argLen := rfl
@[simp] theorem State.passInReset_argLevel (d : Nat) (s : State) : (s.passInReset d).argLevel = s.argLevel := rfl
@[simp] theorem State.passInReset_argRspSize (d : Nat) (s : State) : (s.passInReset d).argRspSize = s.argRspSize := rfl
@[simp] theorem State.passInReset_argExecDelay (d : Nat) (s : State) : (s.passInReset d).argExecDelay = s.argExecDelay := rfl
@[simp] theorem State.passInReset_argExecTimeout (d : Nat) (s : State) : (s.passInReset d).argExecTimeout = s.argExecTimeout := rfl
@[simp] theorem State.passInReset_crcResult (d : Nat) (s : State) : (s.passInReset d).crcResult = s.crcResult := rfl
@[simp] theorem State.passInReset_rxCount (d : Nat) (s : State) : (s.passInReset d).rxCount = s.rxCount := rfl
@[simp] theorem State.passInReset_commState (d : Nat) (s : State) : (s.passInReset d).commState = s.commState := rfl
@[simp] theorem State.passInReset_driveLow (d : Nat) (s : State) : (s.passInReset d).driveLow = s.driveLow := rfl
@[simp] theorem State.passInReset_now (d : Nat) (s : State) : (s.passInReset d).now = s.now := rfl
@[simp] theorem State.passInReset_tx (d : Nat) (s : State) : (s.passInReset d).tx = s.tx := rfl
@[simp] theorem State.passInReset_rx (d : Nat) (s : State) : (s.passInReset d).rx = s.rx := rfl
@[simp] theorem State.passInReset_crc (d : Nat) (s : State) : (s.passInReset d).crc = s.crc := rfl
@[simp] theorem State.passInReset_seq (d : Nat) (s : State) : (s.passInReset d).seq = s.seq := rfl
@[simp] theorem State.passInReset_dev (d : Nat) (s : State) : (s.passInReset d).dev = rebase d s.dev := rfl
@[simp] theorem State.passInReset_host (d : Nat) (s : State) : (s.passInReset d).host = hostAfter d s.host := rfl
@[simp] theorem State.passInReset_resetIn (d : Nat) (s : State) : (s.passInReset d).resetIn = s.resetIn := rfl
@[simp] theorem State.passInReset_trace (d : Nat) (s : State) : (s.passInReset d).trace = s.trace := rfl
@[simp] theorem State.passInReset_reads (d : Nat) (s : State) : (s.passInReset d).reads = s.reads := rfl
@[simp] theorem State.passInReset_freeCount (d : Nat) (s : State) : (s.passInReset d).freeCount = s.freeCount := rfl

/-- With no host access to come, none is due. -/
theorem State.due_of_host_nil (s : State) (h : s.host = []) : s.due = false := by
  simp [State.due, h]

/-- With no host access to come, an engine step counts for none. -/
theorem State.tick_of_host_nil (s : State) (h : s.host = []) : s.tick = s := by
  simp [State.tick, h]

/-- Time that passes leaves no host access to come where there was none. -/
theorem State.pass_host_nil (d : Nat) (s : State) (h : s.host = []) : (s.pass d).host = [] := by
  simp [h, hostAfter]

end Sys2Proof.Machine
end

