-- ==== Sys2Proof/Laws/Memory.lean ====
section
/-! SUPPORT. The laws of a buffer: every operation keeps the canonical form and the capacity; what a
byte reads as after a write. -/

namespace Sys2Proof.Machine

/-- An index below the bound of a canonical buffer is not listed. -/
theorem Memory.read_eq_zero_of_wfFrom (m : Memory) (lo i : Nat) (h : Memory.wfFrom lo m = true) (hi : i < lo) :
    m.read i = 0#8 := by
  induction m generalizing lo with
  | nil => rfl
  | cons c m ih =>
    obtain ⟨a, v⟩ := c
    simp only [Memory.wfFrom, Bool.and_eq_true, decide_eq_true_eq] at h
    have ha : a ≠ i := by omega
    simp only [Memory.read, ha, if_false]
    exact ih (a + 1) h.2 (by omega)

/-- A lower bound of a canonical buffer may be lowered. -/
theorem Memory.wfFrom_mono (m : Memory) (lo lo' : Nat) (h : Memory.wfFrom lo' m = true) (hl : lo ≤ lo') :
    Memory.wfFrom lo m = true := by
  cases m with
  | nil => rfl
  | cons c m =>
    obtain ⟨a, v⟩ := c
    simp only [Memory.wfFrom, Bool.and_eq_true, decide_eq_true_eq] at h ⊢
    exact ⟨⟨by omega, h.1.2⟩, h.2⟩

/-- A write keeps the canonical form from any bound up to the index. -/
theorem Memory.wfFrom_write (m : Memory) (lo i : Nat) (v : Byte) (h : Memory.wfFrom lo m = true) (hi : lo ≤ i) :
    Memory.wfFrom lo (m.write i v) = true := by
  induction m generalizing lo with
  | nil =>
    unfold Memory.write
    split
    · rfl
    · rename_i hv
      simp [Memory.wfFrom, hi, hv]
  | cons c m ih =>
    obtain ⟨a, w⟩ := c
    have h0 := h
    simp only [Memory.wfFrom, Bool.and_eq_true, decide_eq_true_eq] at h
    unfold Memory.write
    split
    · rename_i hia
      split
      · exact h0
      · rename_i hv
        simp only [Memory.wfFrom, Bool.and_eq_true, decide_eq_true_eq]
        exact ⟨⟨hi, by simpa using hv⟩, ⟨⟨hia, h.1.2⟩, h.2⟩⟩
    · split
      · rename_i hia
        subst hia
        split
        · exact Memory.wfFrom_mono m lo (i + 1) h.2 (by omega)
        · rename_i hv
          simp only [Memory.wfFrom, Bool.and_eq_true, decide_eq_true_eq]
          exact ⟨⟨hi, by simpa using hv⟩, h.2⟩
      · simp only [Memory.wfFrom, Bool.and_eq_true, decide_eq_true_eq]
        exact ⟨h.1, ih (a + 1) h.2 (by omega)⟩

/-- A write keeps the canonical form. -/
theorem Memory.wf_write (m : Memory) (i : Nat) (v : Byte) (h : m.wf = true) : (m.write i v).wf = true :=
  Memory.wfFrom_write m 0 i v h (Nat.zero_le i)

/-- What a byte reads as after a write. -/
theorem Memory.read_write_of_wfFrom (m : Memory) (lo i j : Nat) (v : Byte) (h : Memory.wfFrom lo m = true) :
    (m.write i v).read j = if j = i then v else m.read j := by
  induction m generalizing lo with
  | nil =>
    unfold Memory.write
    by_cases hv : v = 0#8
    · simp [hv, Memory.read]
    · by_cases hj : j = i
      · simp [hv, Memory.read, hj]
      · have hj' : i ≠ j := fun e => hj e.symm
        simp [hv, Memory.read, hj, hj']
  | cons c m ih =>
    obtain ⟨a, w⟩ := c
    have h0 := h
    simp only [Memory.wfFrom, Bool.and_eq_true, decide_eq_true_eq] at h
    unfold Memory.write
    by_cases hj : j = i
    · subst hj
      split
      · rename_i hia
        split
        · rename_i hv
          have hr := Memory.read_eq_zero_of_wfFrom m (a + 1) j h.2 (by omega)
          have hai : a ≠ j := by omega
          simp [Memory.read, hai, hr, hv]
        · simp [Memory.read]
      · split
        · rename_i hia
          subst hia
          split
          · rename_i hv
            simp [hv, Memory.read_eq_zero_of_wfFrom m (j + 1) j h.2 (by omega)]
          · simp [Memory.read]
        · rename_i h1 h2
          have hai : a ≠ j := fun e => h2 e.symm
          have := ih (a + 1) h.2
          simp only [if_true] at this
          simp [Memory.read, hai, this]
    · have hij : i ≠ j := fun e => hj e.symm
      split
      · split <;> simp [Memory.read, hij]
      · split
        · rename_i hia
          subst hia
          split <;> simp [Memory.read, hij]
        · have := ih (a + 1) h.2
          simp only [hj, if_false] at this
          simp [Memory.read, this]

/-- What a byte reads as after a write. -/
theorem Memory.read_write (m : Memory) (i j : Nat) (v : Byte) (h : m.wf = true) :
    (m.write i v).read j = if j = i then v else m.read j :=
  Memory.read_write_of_wfFrom m 0 i j v h

/-- Being within a capacity, entry by entry. -/
theorem Memory.within_cons (c : Host.Cell) (m : Memory) (cap : Nat) :
    Memory.within cap (c :: m) = (decide (c.1 < cap) && Memory.within cap m) := rfl

/-- A write below the capacity keeps the buffer within it. -/
theorem Memory.within_write (m : Memory) (cap i : Nat) (v : Byte) (h : m.within cap = true) (hi : i < cap) :
    (m.write i v).within cap = true := by
  induction m with
  | nil =>
    unfold Memory.write
    split
    · rfl
    · simp [hi, Memory.within]
  | cons c m ih =>
    obtain ⟨a, w⟩ := c
    simp only [Memory.within_cons, Bool.and_eq_true, decide_eq_true_eq] at h
    unfold Memory.write
    split
    · split
      · simp [Memory.within_cons, h]
      · simp [Memory.within_cons, h, hi]
    · split
      · split
        · exact h.2
        · simp [Memory.within_cons, h, hi]
      · simp [Memory.within_cons, h, ih h.2]

/-- Zero-filling keeps the canonical form. -/
theorem Memory.wf_zeroFill (m : Memory) (n : Nat) (h : m.wf = true) : (m.zeroFill n).wf = true := by
  induction n with
  | zero => exact h
  | succ n ih => exact Memory.wf_write _ _ _ ih

/-- What a byte reads as after zero-filling. -/
theorem Memory.read_zeroFill (m : Memory) (n j : Nat) (h : m.wf = true) :
    (m.zeroFill n).read j = if j < n then 0#8 else m.read j := by
  induction n with
  | zero => simp [Memory.zeroFill]
  | succ n ih =>
    rw [Memory.zeroFill, Memory.read_write _ _ _ _ (Memory.wf_zeroFill m n h), ih]
    by_cases hj : j = n
    · subst hj; simp
    · by_cases hjn : j < n
      · have : j < n + 1 := by omega
        simp [hj, hjn, this]
      · have : ¬ j < n + 1 := by omega
        simp [hj, hjn, this]

/-- Zero-filling up to the capacity keeps the buffer within it. -/
theorem Memory.within_zeroFill (m : Memory) (cap n : Nat) (h : m.within cap = true) (hn : n ≤ cap) :
    (m.zeroFill n).within cap = true := by
  induction n with
  | zero => exact h
  | succ n ih => exact Memory.within_write _ _ _ _ (ih (by omega)) (by omega)

/-- `RX[i] <- v` below the capacity. -/
theorem State.writeRx_rx (i : Nat) (v : Byte) (s : State) :
    (s.writeRx i v).rx = if i < s.params.val.rxCapacity then s.rx.write i v else s.rx := by
  unfold State.writeRx; split <;> rfl

/-- `TX[i] <- v` below the capacity. -/
theorem State.writeTx_tx (i : Nat) (v : Byte) (s : State) :
    (s.writeTx i v).tx = if i < s.params.val.txCapacity then s.tx.write i v else s.tx := by
  unfold State.writeTx; split <;> rfl

/-- RX keeps its canonical form and its capacity under a write. -/
theorem State.writeRx_keeps (i : Nat) (v : Byte) (s : State) (h : s.rx.wf = true)
    (hw : s.rx.within s.params.val.rxCapacity = true) :
    (s.writeRx i v).rx.wf = true ∧ (s.writeRx i v).rx.within s.params.val.rxCapacity = true := by
  rw [State.writeRx_rx]
  split
  · rename_i hi
    exact ⟨Memory.wf_write _ _ _ h, Memory.within_write _ _ _ _ hw hi⟩
  · exact ⟨h, hw⟩

/-- TX keeps its canonical form and its capacity under a write. -/
theorem State.writeTx_keeps (i : Nat) (v : Byte) (s : State) (h : s.tx.wf = true)
    (hw : s.tx.within s.params.val.txCapacity = true) :
    (s.writeTx i v).tx.wf = true ∧ (s.writeTx i v).tx.within s.params.val.txCapacity = true := by
  rw [State.writeTx_tx]
  split
  · rename_i hi
    exact ⟨Memory.wf_write _ _ _ h, Memory.within_write _ _ _ _ hw hi⟩
  · exact ⟨h, hw⟩

/-- RX keeps its canonical form and its capacity under zero-filling. -/
theorem State.zeroRx_keeps (n : Nat) (s : State) (h : s.rx.wf = true)
    (hw : s.rx.within s.params.val.rxCapacity = true) :
    (s.zeroRx n).rx.wf = true ∧ (s.zeroRx n).rx.within s.params.val.rxCapacity = true :=
  ⟨Memory.wf_zeroFill _ _ h, Memory.within_zeroFill _ _ _ hw (Nat.min_le_right _ _)⟩

/-- The two CRC bytes go where they are written, inside the capacity. -/
theorem State.writeTxCrc_tx (i : Nat) (c : Word) (s : State) (h : i + 1 < s.params.val.txCapacity) :
    (s.writeTxCrc i c).tx = (s.tx.write i (loByte c)).write (i + 1) (hiByte c) := by
  have h' : i < s.params.val.txCapacity := by omega
  simp [State.writeTxCrc, State.writeTx_tx, h, h']

/-- TX keeps its canonical form and its capacity when the CRC bytes are written. -/
theorem State.writeTxCrc_keeps (i : Nat) (c : Word) (s : State) (h : s.tx.wf = true)
    (hw : s.tx.within s.params.val.txCapacity = true) :
    (s.writeTxCrc i c).tx.wf = true ∧ (s.writeTxCrc i c).tx.within s.params.val.txCapacity = true := by
  obtain ⟨h1, h2⟩ := State.writeTx_keeps i (loByte c) s h hw
  have := State.writeTx_keeps (i + 1) (hiByte c) (s.writeTx i (loByte c)) h1 (by simpa using h2)
  simpa [State.writeTxCrc] using this

/-- A byte list read from a buffer, byte by byte. -/
@[simp] theorem Memory.prefixBytes_length (m : Memory) (n : Nat) : (m.prefixBytes n).length = n := by
  simp [Memory.prefixBytes]

/-- A byte list depends only on the bytes below its length. -/
theorem Memory.prefixBytes_congr (m m' : Memory) (n : Nat) (h : ∀ i, i < n → m.read i = m'.read i) :
    m.prefixBytes n = m'.prefixBytes n := by
  simp only [Memory.prefixBytes]
  exact List.map_congr_left (fun i hi => h i (List.mem_range.mp hi))

/-- A buffer without entries reads 0x00 everywhere. -/
@[simp] theorem Memory.read_nil (i : Nat) : Memory.read [] i = 0#8 := rfl

end Sys2Proof.Machine
end

