-- ==== Sys2Proof/Laws/Wave.lean ====
section
/-! SUPPORT. The laws of the waveform `trace` and of time passing. -/

namespace Sys2Proof.Machine

@[simp] theorem extendTrace_zero (tr : List Segment) (l : Level) : extendTrace tr l 0 = tr := by
  simp [extendTrace]

/-- Two stretches of one level, one after the other, are one. -/
theorem extendTrace_add (tr : List Segment) (l : Level) (a b : Nat) :
    extendTrace (extendTrace tr l a) l b = extendTrace tr l (a + b) := by
  by_cases ha : a = 0
  · simp [ha]
  · by_cases hb : b = 0
    · simp [hb]
    · have hab : a + b ≠ 0 := by omega
      cases tr with
      | nil => simp [extendTrace, ha, hb]
      | cons g rest =>
        by_cases hg : g.level = l
        · simp [extendTrace, ha, hb, hg, Nat.add_assoc]
        · simp [extendTrace, ha, hb, hg]

/-- A waveform grows by what is appended. -/
theorem traceLen_extendTrace (tr : List Segment) (l : Level) (d : Nat) :
    traceLen (extendTrace tr l d) = traceLen tr + d := by
  by_cases hd : d = 0
  · simp [hd]
  · cases tr with
    | nil => simp [extendTrace, hd, traceLen]
    | cons g rest =>
      by_cases hg : g.level = l
      · simp [extendTrace, hd, hg, traceLen]; omega
      · simp [extendTrace, hd, hg, traceLen]; omega

/-- A waveform stays canonical. -/
theorem canonicalTrace_extendTrace (tr : List Segment) (l : Level) (d : Nat) (h : canonicalTrace tr = true) :
    canonicalTrace (extendTrace tr l d) = true := by
  by_cases hd : d = 0
  · simp [hd, h]
  · have hd' : 0 < d := by omega
    cases tr with
    | nil => simp [extendTrace, hd, canonicalTrace, hd']
    | cons g rest =>
      by_cases hg : g.level = l
      · cases rest with
        | nil =>
          have hp : 0 < g.len + d := by omega
          simp [extendTrace, hd, hg, canonicalTrace, hp]
        | cons h2 rest =>
          simp only [canonicalTrace, Bool.and_eq_true] at h
          have hp : 0 < g.len + d := by omega
          simp only [extendTrace, hd, hg, if_true, if_false, canonicalTrace, Bool.and_eq_true]
          exact ⟨⟨by simpa using hp, by simpa [hg] using h.1.2⟩, h.2⟩
      · have hl : l ≠ g.level := fun e => hg e.symm
        simp [extendTrace, hd, hg, canonicalTrace, hd', hl, h]

@[simp] theorem State.pass_driven (d : Nat) (s : State) : (s.pass d).driven = s.driven := rfl

@[simp] theorem hostAfter_hostAfter (a b : Nat) (es : List HostEvent) :
    hostAfter b (hostAfter a es) = hostAfter (a + b) es := by
  cases es with
  | nil => rfl
  | cons e rest => simp [hostAfter, Nat.sub_sub]

@[simp] theorem hostAfter_zero (es : List HostEvent) : hostAfter 0 es = es := by
  cases es <;> rfl

/-- Time that passes in two stretches passes in one. -/
theorem State.pass_pass (a b : Nat) (s : State) : (s.pass a).pass b = s.pass (a + b) := by
  have h : (s.pass a).pass b =
      { s with
        now := s.now + a + b
        trace := extendTrace (extendTrace s.trace s.driven a) s.driven b
        host := hostAfter b (hostAfter a s.host) } := rfl
  rw [h, extendTrace_add, hostAfter_hostAfter, Nat.add_assoc]
  rfl

@[simp] theorem State.pass_zero (s : State) : s.pass 0 = s := by
  simp [State.pass]

@[simp] theorem State.withSeq_withSeq (q r : Sequencer) (s : State) : (s.withSeq r).withSeq q = s.withSeq q := rfl

@[simp] theorem State.withSeq_self (s : State) : s.withSeq s.seq = s := rfl

@[simp] theorem State.updSeq_withSeq (f : Sequencer → Sequencer) (q : Sequencer) (s : State) :
    (s.withSeq q).updSeq f = s.withSeq (f q) := rfl

@[simp] theorem State.pass_withSeq (d : Nat) (q : Sequencer) (s : State) :
    (s.withSeq q).pass d = (s.pass d).withSeq q := rfl

@[simp] theorem State.setDrive_withSeq (l : Level) (q : Sequencer) (s : State) :
    (s.withSeq q).setDrive l = (s.setDrive l).withSeq q := rfl

@[simp] theorem State.line_withSeq (q : Sequencer) (s : State) : (s.withSeq q).line = s.line := rfl

@[simp] theorem State.zeroRx_withSeq (n : Nat) (q : Sequencer) (s : State) :
    (s.withSeq q).zeroRx n = (s.zeroRx n).withSeq q := rfl

@[simp] theorem State.writeRx_withSeq (i : Nat) (v : Byte) (q : Sequencer) (s : State) :
    (s.withSeq q).writeRx i v = (s.writeRx i v).withSeq q := by
  unfold State.writeRx
  by_cases h : i < s.params.val.rxCapacity
  · rw [if_pos h, if_pos (show i < (s.withSeq q).params.val.rxCapacity from h)]
    rfl
  · rw [if_neg h, if_neg (show ¬ i < (s.withSeq q).params.val.rxCapacity from h)]

@[simp] theorem State.writeTx_withSeq (i : Nat) (v : Byte) (q : Sequencer) (s : State) :
    (s.withSeq q).writeTx i v = (s.writeTx i v).withSeq q := by
  unfold State.writeTx
  by_cases h : i < s.params.val.txCapacity
  · rw [if_pos h, if_pos (show i < (s.withSeq q).params.val.txCapacity from h)]
    rfl
  · rw [if_neg h, if_neg (show ¬ i < (s.withSeq q).params.val.txCapacity from h)]

@[simp] theorem State.orRxBit_withSeq (i k : Nat) (q : Sequencer) (s : State) :
    (s.withSeq q).orRxBit i k = (s.orRxBit i k).withSeq q := by
  simp [State.orRxBit]

@[simp] theorem State.writeTxCrc_withSeq (i : Nat) (c : Word) (q : Sequencer) (s : State) :
    (s.withSeq q).writeTxCrc i c = (s.writeTxCrc i c).withSeq q := by
  simp [State.writeTxCrc]

@[simp] theorem State.storeCrc_withSeq (c : Word) (q : Sequencer) (s : State) :
    (s.withSeq q).storeCrc c = (s.storeCrc c).withSeq q := rfl

@[simp] theorem State.finish_withSeq (c : ResultCode) (q : Sequencer) (s : State) :
    (s.withSeq q).finish c = s.finish c := rfl

end Sys2Proof.Machine

namespace Sys2Proof.Reference

open Sys2Proof.Machine

/-- What `drive` leaves of the rest of the state: only `drive_low`, `now`, `trace` and the waiting of
the host's accesses change. -/
theorem drive_frame (gs : List Segment) (s : State) :
    ∃ l n tr, drive gs s =
      { s with driveLow := l, now := n, trace := tr, host := (drive gs s).host } := by
  induction gs generalizing s with
  | nil => exact ⟨s.driveLow, s.now, s.trace, rfl⟩
  | cons g gs ih =>
    obtain ⟨l, n, tr, h⟩ := ih ((s.setDrive g.level).pass g.len)
    refine ⟨l, n, tr, ?_⟩
    rw [drive]
    conv_lhs => rw [h]
    rfl

@[simp] theorem drive_params (gs : List Segment) (s : State) : (drive gs s).params = s.params := by
  obtain ⟨_, _, _, h⟩ := drive_frame gs s
  rw [h]

theorem drive_host_nil (gs : List Segment) (s : State) (h : s.host = []) : (drive gs s).host = [] := by
  induction gs generalizing s with
  | nil => exact h
  | cons g gs ih => exact ih _ (State.pass_host_nil _ _ h)

/-- `drive` takes as long as its segments. -/
theorem drive_now (gs : List Segment) (s : State) : (drive gs s).now = s.now + traceLen gs := by
  induction gs generalizing s with
  | nil => rfl
  | cons g gs ih =>
    rw [drive, ih]
    simp [traceLen]
    omega

/-- `drive` does not read or write the sequencer. -/
@[simp] theorem drive_withSeq (gs : List Segment) (q : Sequencer) (s : State) :
    drive gs (s.withSeq q) = (drive gs s).withSeq q := by
  induction gs generalizing s with
  | nil => rfl
  | cons g gs ih => simp only [drive, State.setDrive_withSeq, State.pass_withSeq, ih]

end Sys2Proof.Reference
end

