-- ==== Sys2Proof/Laws/Engine.lean ====
section
/-! SUPPORT. What each construct of the pseudocode does, once: where no host access is to come, nothing
is suspended. -/

namespace Sys2Proof.Machine

-- One declaration after the other: in parallel they wait for each other in many threads.
set_option Elab.async false

@[simp] theorem Stmt.block_one (a : Stmt) : Stmt.block [a] = a := rfl

@[simp] theorem Stmt.block_cons (a b : Stmt) (as : List Stmt) :
    Stmt.block (a :: b :: as) = .seq a (Stmt.block (b :: as)) := rfl

theorem eval_act {s : State} (a : Action) (h : s.host = []) : eval (.act a) s = .done (a.run s) := by
  simp [eval, atomic, State.due_of_host_nil s h, State.tick_of_host_nil s h]

theorem waitUs_host_nil {s : State} (d : Nat) (h : s.host = []) : waitUs d s = .done (s.pass d) := by
  simp [waitUs, State.due_of_host_nil s h, h]

theorem eval_delay {s : State} (d : Qty) (h : s.host = []) : eval (.delay d) s = .done (s.pass (d.value s)) := by
  rw [eval, waitUs_host_nil _ h]

theorem driveAll_host_nil {s : State} (gs : List Segment) (h : s.host = []) :
    driveAll gs s = .done (Reference.drive gs s) := by
  induction gs generalizing s with
  | nil => rfl
  | cons g gs ih =>
    have h1 : (s.setDrive g.level).host = [] := h
    rw [driveAll, State.due_of_host_nil s h, waitUs_host_nil _ h1]
    simpa [Res.andThen, Reference.drive] using ih (State.pass_host_nil g.len _ h1)

theorem eval_drives {s : State} (gs : List Segment) (h : s.host = []) :
    eval (.drives gs) s = .done (Reference.drive gs s) := by
  rw [eval, driveAll_host_nil _ h]

theorem eval_send {s : State} (src : Source) (h : s.host = []) :
    eval (.send src) s = .done (Reference.sendBytes (src.bytes s) s) := by
  rw [eval, driveAll_host_nil _ h]
  rfl

theorem eval_finish {s : State} (f : Finish) (h : s.host = []) :
    eval (.finish f) s = .fin (s.finish (f.result s)) := by
  simp [eval, State.due_of_host_nil s h, State.tick_of_host_nil s h]

theorem eval_seq_done {a b : Stmt} {s t : State} (h : eval a s = .done t) : eval (.seq a b) s = eval b t := by
  rw [eval, h]
  rfl

theorem eval_seq_fin {a b : Stmt} {s t : State} (h : eval a s = .fin t) : eval (.seq a b) s = .fin t := by
  rw [eval, h]
  rfl

theorem eval_seq_ret {a b : Stmt} {s t : State} (h : eval a s = .ret t) : eval (.seq a b) s = .ret t := by
  rw [eval, h]
  rfl

theorem eval_seq_brk {a b : Stmt} {s t : State} (h : eval a s = .brk t) : eval (.seq a b) s = .brk t := by
  rw [eval, h]
  rfl

theorem eval_ite_true {c : Cond} {s : State} (a b : Stmt) (h : c.holds s = true) :
    eval (.ite c a b) s = eval a s := by
  rw [eval, if_pos h]

theorem eval_ite_false {c : Cond} {s : State} (a b : Stmt) (h : c.holds s = false) :
    eval (.ite c a b) s = eval b s := by
  rw [eval, if_neg (by simp [h])]

theorem eval_when_true {c : Cond} {s : State} (a : Stmt) (h : c.holds s = true) :
    eval (.when c a) s = eval a s := eval_ite_true _ _ h

theorem eval_when_false {c : Cond} {s : State} (a : Stmt) (h : c.holds s = false) :
    eval (.when c a) s = .done s := by
  rw [Stmt.when, eval_ite_false _ _ h]
  rfl

theorem eval_act_seq {s : State} (a : Action) (b : Stmt) (h : s.host = []) :
    eval (.seq (.act a) b) s = eval b (a.run s) := eval_seq_done (eval_act a h)

theorem eval_delay_seq {s : State} (d : Qty) (b : Stmt) (h : s.host = []) :
    eval (.seq (.delay d) b) s = eval b (s.pass (d.value s)) := eval_seq_done (eval_delay d h)

theorem eval_drives_seq {s : State} (gs : List Segment) (b : Stmt) (h : s.host = []) :
    eval (.seq (.drives gs) b) s = eval b (Reference.drive gs s) := eval_seq_done (eval_drives gs h)

theorem eval_send_seq {s : State} (src : Source) (b : Stmt) (h : s.host = []) :
    eval (.seq (.send src) b) s = eval b (Reference.sendBytes (src.bytes s) s) := eval_seq_done (eval_send src h)

theorem eval_when_seq_false {c : Cond} {s : State} (a b : Stmt) (h : c.holds s = false) :
    eval (.seq (.when c a) b) s = eval b s := eval_seq_done (eval_when_false a h)

theorem eval_when_finish {c : Cond} {s : State} (f : Finish) (b : Stmt) (hs : s.host = []) (h : c.holds s = true) :
    eval (.seq (.when c (.finish f)) b) s = .fin (s.finish (f.result s)) :=
  eval_seq_fin (by rw [eval_when_true _ h, eval_finish f hs])

theorem eval_proc (b : Stmt) (s : State) : eval (.proc b) s = (eval b s).returned := by rw [eval]

theorem eval_loop (n : Qty) (b : Stmt) (s : State) : eval (.loop n b) s = iterate (eval b) b (n.value s) s := by
  rw [eval]

theorem eval_proc_done {b : Stmt} {s t : State} (h : eval b s = .done t) : eval (.proc b) s = .done t := by
  rw [eval, h]
  rfl

theorem eval_proc_ret {b : Stmt} {s t : State} (h : eval b s = .ret t) : eval (.proc b) s = .done t := by
  rw [eval, h]
  rfl

theorem eval_act_ret {s : State} (a : Action) (h : s.host = []) :
    eval (.block [.act a, .ret]) s = .ret (a.run s) := by
  rw [Stmt.block_cons, eval_act_seq a _ h]
  rfl

/-- The engine's run of an operation that finishes. -/
theorem runEngine_of_fin {s t : State} (h : eval s.seq.code s = .fin t) : s.runEngine = t := by
  rw [State.runEngine, h]
  rfl

/-- An accepted operation that finishes leaves the state in which it finished. -/
theorem command_of_fin {s t : State} {code : Byte} {op : Option Instr} {prog : Stmt}
    (hr : s.resetIn = false) (ha : s.status.active = false)
    (h : eval prog (s.accept code op prog) = .fin t) : command code op prog s = t := by
  rw [command, if_neg (by simp [hr]), if_neg (by simp [ha])]
  exact runEngine_of_fin (by simpa using h)

end Sys2Proof.Machine
end

