-- ==== Sys2Proof/Laws/Procedures.lean ====
section
/-! SUPPORT. The procedures of the spec: the sequencer's run of each is the function of Reference.lean
of the same name, where no host access is to come. Every law is about a state `b.withSeq q`: the
sequencer's registers `q` beside the rest `b`. -/

namespace Sys2Proof.Reference

open Sys2Proof.Machine

/-- `waitLevel` only lets time pass, at most `n` sample periods. -/
theorem waitLevel_pass (l : Level) (n k : Nat) (b : State) :
    ∃ d, d ≤ n * b.params.val.tSample ∧ (waitLevel l n k b).2 = b.pass d := by
  induction n generalizing k b with
  | zero => exact ⟨0, Nat.zero_le _, by simp [waitLevel]⟩
  | succ n ih =>
    rw [waitLevel]
    split
    · exact ⟨0, Nat.zero_le _, by simp⟩
    · obtain ⟨d, hd, he⟩ := ih (k + 1) (b.pass b.params.val.tSample)
      refine ⟨b.params.val.tSample + d, ?_, by rw [he, State.pass_pass]⟩
      simp only [State.pass_params] at hd
      rw [Nat.succ_mul]
      omega

/-- A sample that `waitLevel` finds is one of the window, and the time until it is its number of
sample periods. -/
theorem waitLevel_found (l : Level) (n k j : Nat) (b : State) (h : (waitLevel l n k b).1 = .found j) :
    k ≤ j ∧ j < k + n ∧ (waitLevel l n k b).2 = b.pass ((j - k) * b.params.val.tSample) := by
  induction n generalizing k b with
  | zero => simp [waitLevel] at h
  | succ n ih =>
    rw [waitLevel] at h ⊢
    split at h
    · rename_i hl
      simp only [WaitOutcome.found.injEq] at h
      subst h
      simp [hl]
    · rename_i hl
      obtain ⟨h1, h2, h3⟩ := ih (k + 1) (b.pass b.params.val.tSample) h
      refine ⟨by omega, by omega, ?_⟩
      rw [if_neg hl, h3, State.pass_pass, State.pass_params]
      congr 1
      obtain ⟨i, rfl⟩ : ∃ i, j = k + 1 + i := ⟨j - (k + 1), by omega⟩
      have e1 : k + 1 + i - (k + 1) = i := by omega
      have e2 : k + 1 + i - k = i + 1 := by omega
      rw [e1, e2, Nat.succ_mul]
      omega

/-- A window without the level takes its whole length. -/
theorem waitLevel_timeout (l : Level) (n k : Nat) (b : State) (h : (waitLevel l n k b).1 = .timeout) :
    (waitLevel l n k b).2 = b.pass (n * b.params.val.tSample) := by
  induction n generalizing k b with
  | zero => simp [waitLevel]
  | succ n ih =>
    rw [waitLevel] at h ⊢
    split at h
    · simp at h
    · rename_i hl
      rw [if_neg hl, ih (k + 1) _ h, State.pass_pass, State.pass_params]
      congr 1
      rw [Nat.succ_mul]
      omega

/-- `receiveBit` only lets time pass, at most BB (70_reset_and_hazards.md R224). -/
theorem receiveBit_pass (b : State) :
    ∃ d, d ≤ bitBound b.params.val ∧ (receiveBit b).2 = b.pass d := by
  have hmul : ∀ x y z t : Nat, (x + y + z) * t = x * t + y * t + z * t := fun x y z t => by
    rw [Nat.add_mul, Nat.add_mul]
  have hstep : ∀ j n t : Nat, j < n → j * t + t ≤ n * t := fun j n t h => by
    have := Nat.mul_le_mul_right t (show j + 1 ≤ n from h)
    rwa [Nat.succ_mul] at this
  unfold receiveBit bitBound
  simp only [hmul]
  rcases h1 : waitLevel .low b.params.val.nStart 0 b with ⟨r1, s1⟩
  cases r1 with
  | timeout =>
    have := waitLevel_timeout _ _ _ _ (by rw [h1])
    rw [h1] at this
    exact ⟨_, by omega, this⟩
  | found j1 =>
    obtain ⟨-, hj1, e1⟩ := waitLevel_found _ _ _ j1 _ (by rw [h1])
    rw [h1] at e1
    simp only [Nat.sub_zero] at e1
    subst e1
    have b1 := hstep j1 _ b.params.val.tSample (by simpa using hj1)
    simp only [State.pass_pass]
    rcases h2 : waitLevel .high b.params.val.nRise 0 (b.pass (j1 * b.params.val.tSample + b.params.val.tSample)) with ⟨r2, s2⟩
    cases r2 with
    | timeout =>
      have := waitLevel_timeout _ _ _ _ (by rw [h2])
      rw [h2, State.pass_pass, State.pass_params] at this
      exact ⟨_, by omega, this⟩
    | found j2 =>
      obtain ⟨-, hj2, e2⟩ := waitLevel_found _ _ _ j2 _ (by rw [h2])
      rw [h2, State.pass_pass, State.pass_params] at e2
      simp only [Nat.sub_zero] at e2
      subst e2
      have b2 := hstep j2 _ b.params.val.tSample (by simpa using hj2)
      simp only [State.pass_pass]
      rcases h3 : waitLevel .low b.params.val.nZero 0 (b.pass (j1 * b.params.val.tSample + b.params.val.tSample + j2 * b.params.val.tSample + b.params.val.tSample)) with ⟨r3, s3⟩
      cases r3 with
      | timeout =>
        have := waitLevel_timeout _ _ _ _ (by rw [h3])
        rw [h3, State.pass_pass, State.pass_params] at this
        exact ⟨_, by omega, this⟩
      | found j3 =>
        obtain ⟨-, hj3, e3⟩ := waitLevel_found _ _ _ j3 _ (by rw [h3])
        rw [h3, State.pass_pass, State.pass_params] at e3
        simp only [Nat.sub_zero] at e3
        subst e3
        simp only [State.pass_pass]
        obtain ⟨d4, hd4, e4⟩ := waitLevel_pass .high (b.params.val.nZero - j3 - 1) 0
          (b.pass (j1 * b.params.val.tSample + b.params.val.tSample + j2 * b.params.val.tSample + b.params.val.tSample + j3 * b.params.val.tSample + b.params.val.tSample))
        refine ⟨j1 * b.params.val.tSample + b.params.val.tSample + j2 * b.params.val.tSample + b.params.val.tSample + j3 * b.params.val.tSample + b.params.val.tSample + d4, ?_, by rw [e4, State.pass_pass]⟩
        simp only [State.pass_params] at hd4
        have : j3 * b.params.val.tSample + b.params.val.tSample + (b.params.val.nZero - j3 - 1) * b.params.val.tSample
            = b.params.val.nZero * b.params.val.tSample := by
          rw [← Nat.succ_mul, ← Nat.add_mul]
          congr 1
          omega
        omega

end Sys2Proof.Reference

namespace Sys2Proof.Machine

open Sys2Proof

/-- The loop body of WaitLevel. -/
def waitBody (p : Params) (l : Level) : Stmt :=
  .block [
    .when (.lineIs l) (.block [.act .waitFound, .ret]),
    .delay (.lit p.tSample),
    .act .nextSample]

/-- The sequencer's registers after WaitLevel. -/
def afterWait (r : WaitOutcome) (n : Nat) (q : Sequencer) : Sequencer :=
  { q with waited := r, sampleIx := match r with | .found k => k | .timeout => n }

/-- The loop of WaitLevel, from sample `k` on. -/
theorem iterate_waitBody (l : Level) (n k : Nat) (b : State) (q : Sequencer) (hb : b.host = [])
    (hk : q.sampleIx = k) :
    iterate (eval (waitBody b.params.val l)) (waitBody b.params.val l) n (b.withSeq q) =
      match Reference.waitLevel l n k b with
      | (.found j, t) => .ret (t.withSeq { q with sampleIx := j, waited := .found j })
      | (.timeout, t) => .done (t.withSeq { q with sampleIx := k + n }) := by
  induction n generalizing k b q with
  | zero =>
    subst hk
    rfl
  | succ n ih =>
    have hq : (b.withSeq q).host = [] := hb
    rw [iterate, Reference.waitLevel]
    by_cases hl : b.line = l
    · have hc : (Cond.lineIs l).holds (b.withSeq q) = true := by simp [Cond.holds, hl]
      have : eval (waitBody b.params.val l) (b.withSeq q) =
          .ret (b.withSeq { q with waited := .found q.sampleIx }) := by
        rw [waitBody, Stmt.block_cons, eval_seq_ret (by rw [eval_when_true _ hc, eval_act_ret _ hq])]
        rfl
      rw [this, if_pos hl]
      subst hk
      rfl
    · have hc : (Cond.lineIs l).holds (b.withSeq q) = false := by simp [Cond.holds, hl]
      have : eval (waitBody b.params.val l) (b.withSeq q) =
          .done ((b.pass b.params.val.tSample).withSeq { q with sampleIx := q.sampleIx + 1 }) := by
        rw [waitBody, Stmt.block_cons, eval_when_seq_false _ _ hc, Stmt.block_cons, eval_delay_seq _ _ hq, Stmt.block_one,
          eval_act _ (State.pass_host_nil _ _ hq)]
        rfl
      rw [this, if_neg hl]
      have := ih (k + 1) (b.pass b.params.val.tSample) { q with sampleIx := q.sampleIx + 1 }
        (State.pass_host_nil _ _ hb) (by simp [hk])
      simp only [State.pass_params] at this
      rw [Res.looped, this]
      have hn : k + 1 + n = k + (n + 1) := by omega
      rw [hn]

/-- WaitLevel (40_transceiver.md R103). -/
theorem eval_waitLevel (l : Level) (c : Qty) (n : Nat) (b : State) (q : Sequencer) (hb : b.host = [])
    (hn : c.value (b.withSeq { q with sampleIx := 0 }) = n) :
    eval (waitLevelCode b.params.val l c) (b.withSeq q) =
      .done ((Reference.waitLevel l n 0 b).2.withSeq (afterWait (Reference.waitLevel l n 0 b).1 n q)) := by
  have hq : (b.withSeq q).host = [] := hb
  have h0 := iterate_waitBody l n 0 b { q with sampleIx := 0 } hb rfl
  have hloop : eval (.loop c (waitBody b.params.val l)) (b.withSeq { q with sampleIx := 0 }) =
      iterate (eval (waitBody b.params.val l)) (waitBody b.params.val l) n (b.withSeq { q with sampleIx := 0 }) := by
    rw [eval, hn]
  rw [h0] at hloop
  have hcode : waitLevelCode b.params.val l c =
      .proc (.seq (.act .firstSample) (.seq (.loop c (waitBody b.params.val l)) (.act .waitTimeout))) := rfl
  have hact : Action.run .firstSample (b.withSeq q) = b.withSeq { q with sampleIx := 0 } := rfl
  rw [hcode]
  rcases hw : Reference.waitLevel l n 0 b with ⟨r, t⟩
  rw [hw] at hloop
  cases r with
  | found j =>
    rw [eval_proc_ret (t := t.withSeq (afterWait (.found j) n q))]
    rw [eval_act_seq _ _ hq, hact, eval_seq_ret hloop]
    rfl
  | timeout =>
    have ht : (t.withSeq { q with sampleIx := 0 + n }).host = [] := by
      obtain ⟨d, _, he⟩ := Reference.waitLevel_pass l n 0 b
      rw [hw] at he
      simp only at he
      subst he
      exact State.pass_host_nil _ _ hb
    rw [eval_proc_done (t := t.withSeq (afterWait .timeout n q))]
    rw [eval_act_seq _ _ hq, hact, eval_seq_done hloop, eval_act _ ht]
    simp [afterWait, Action.run]

/-- What ReceiveBit leaves of the sequencer's registers: all but its own. -/
def Sequencer.forgetBit (q : Sequencer) : Sequencer :=
  { q with sampleIx := 0, waited := .timeout, bit := .timeout }

/-- What ReceiveBytes leaves of the sequencer's registers: all but its own. -/
def Sequencer.forgetBytes (q : Sequencer) : Sequencer :=
  { q.forgetBit with off := 0, count := 0, byteIx := 0, bitIx := 0, st := .success }

/-- ReceiveBit (40_transceiver.md R107). -/
theorem eval_receiveBit (b : State) (q : Sequencer) (hb : b.host = []) :
    ∃ q', eval (receiveBitCode b.params.val) (b.withSeq q) = .done ((Reference.receiveBit b).2.withSeq q') ∧
      q'.bit = (Reference.receiveBit b).1 ∧ q'.forgetBit = q.forgetBit := by
  have htimed : ∀ (t : State) (n : Nat) (q : Sequencer), Cond.waitTimedOut.holds (t.withSeq (afterWait .timeout n q)) = true :=
    fun _ _ _ => rfl
  have hfound : ∀ (t : State) (n k : Nat) (q : Sequencer),
      Cond.waitTimedOut.holds (t.withSeq (afterWait (.found k) n q)) = false := fun _ _ _ _ => rfl
  have hstop : ∀ (t : State) (q : Sequencer) (r : BitOutcome) (k : Stmt), t.host = [] → ∀ n,
      eval (.seq (.when .waitTimedOut (.seq (.act (.bitIs r)) .ret)) k) (t.withSeq (afterWait .timeout n q)) =
        .ret (t.withSeq { afterWait .timeout n q with bit := r }) := by
    intro t q r k ht n
    have ht' : (t.withSeq (afterWait .timeout n q)).host = [] := ht
    rw [eval_seq_ret]
    rw [eval_when_true _ (htimed _ _ _), eval_act_seq _ _ ht']
    rfl
  have hgo : ∀ (t : State) (q : Sequencer) (r : BitOutcome) (k : Stmt), t.host = [] → ∀ n j,
      eval (.seq (.when .waitTimedOut (.seq (.act (.bitIs r)) .ret)) (.seq (.delay (.lit b.params.val.tSample)) k))
        (t.withSeq (afterWait (.found j) n q)) =
        eval k ((t.pass b.params.val.tSample).withSeq (afterWait (.found j) n q)) := by
    intro t q r k ht n j
    have ht' : (t.withSeq (afterWait (.found j) n q)).host = [] := ht
    rw [eval_when_seq_false _ _ (hfound _ _ _ _), eval_delay_seq _ _ ht']
    rfl
  unfold receiveBitCode Reference.receiveBit
  simp only [Stmt.block_cons, Stmt.block_one]
  have hw1 := eval_waitLevel .low (.lit b.params.val.nStart) b.params.val.nStart b q hb rfl
  obtain ⟨d1, -, p1⟩ := Reference.waitLevel_pass .low b.params.val.nStart 0 b
  rcases h1 : Reference.waitLevel .low b.params.val.nStart 0 b with ⟨r1, s1⟩
  rw [h1] at hw1 p1
  simp only at p1 hw1
  subst p1
  have hs1 := State.pass_host_nil d1 b hb
  cases r1 with
  | timeout =>
    refine ⟨{ afterWait .timeout b.params.val.nStart q with bit := .timeout }, ?_, rfl, rfl⟩
    apply eval_proc_ret
    rw [eval_seq_done hw1, hstop _ _ _ _ hs1]
  | found j1 =>
    have hs1' := State.pass_host_nil b.params.val.tSample _ hs1
    have hw2 := eval_waitLevel .high (.lit b.params.val.nRise) b.params.val.nRise
      ((b.pass d1).pass b.params.val.tSample) (afterWait (.found j1) b.params.val.nStart q) hs1' rfl
    obtain ⟨d2, -, p2⟩ := Reference.waitLevel_pass .high b.params.val.nRise 0 ((b.pass d1).pass b.params.val.tSample)
    dsimp only
    rcases h2 : Reference.waitLevel .high b.params.val.nRise 0 ((b.pass d1).pass b.params.val.tSample) with ⟨r2, s2⟩
    rw [h2] at hw2 p2
    simp only at p2 hw2
    subst p2
    have hs2 := State.pass_host_nil d2 _ hs1'
    simp only [State.pass_params] at hw2
    cases r2 with
    | timeout =>
      refine ⟨{ afterWait .timeout b.params.val.nRise (afterWait (.found j1) b.params.val.nStart q) with bit := .timeout }, ?_, rfl, rfl⟩
      apply eval_proc_ret
      rw [eval_seq_done hw1, hgo _ _ _ _ hs1, eval_seq_done hw2, hstop _ _ _ _ hs2]
    | found j2 =>
      have hs2' := State.pass_host_nil b.params.val.tSample _ hs2
      have hw3 := eval_waitLevel .low (.lit b.params.val.nZero) b.params.val.nZero
        ((((b.pass d1).pass b.params.val.tSample).pass d2).pass b.params.val.tSample)
        (afterWait (.found j2) b.params.val.nRise (afterWait (.found j1) b.params.val.nStart q)) hs2' rfl
      obtain ⟨d3, -, p3⟩ := Reference.waitLevel_pass .low b.params.val.nZero 0
        ((((b.pass d1).pass b.params.val.tSample).pass d2).pass b.params.val.tSample)
      dsimp only
      rcases h3 : Reference.waitLevel .low b.params.val.nZero 0
        ((((b.pass d1).pass b.params.val.tSample).pass d2).pass b.params.val.tSample) with ⟨r3, s3⟩
      rw [h3] at hw3 p3
      simp only at p3 hw3
      subst p3
      have hs3 := State.pass_host_nil d3 _ hs2'
      simp only [State.pass_params] at hw3
      cases r3 with
      | timeout =>
        refine ⟨{ afterWait .timeout b.params.val.nZero (afterWait (.found j2) b.params.val.nRise (afterWait (.found j1) b.params.val.nStart q)) with bit := .one }, ?_, rfl, rfl⟩
        apply eval_proc_ret
        rw [eval_seq_done hw1, hgo _ _ _ _ hs1, eval_seq_done hw2, hgo _ _ _ _ hs2, eval_seq_done hw3,
          hstop _ _ _ _ hs3]
      | found k =>
        have hs3' := State.pass_host_nil b.params.val.tSample _ hs3
        generalize hq3 : afterWait (.found k) b.params.val.nZero
          (afterWait (.found j2) b.params.val.nRise (afterWait (.found j1) b.params.val.nStart q)) = q3 at hw3
        have hq3w : q3.waited = .found k := by rw [← hq3]; rfl
        have hq3f : q3.forgetBit = q.forgetBit := by rw [← hq3]; rfl
        generalize ht : ((((b.pass d1).pass b.params.val.tSample).pass d2).pass b.params.val.tSample).pass d3 = t at *
        have htp : t.params = b.params := by rw [← ht]; rfl
        have hs3'' : ((t.pass b.params.val.tSample).withSeq q3).host = [] := hs3'
        have hm : ∀ q : Sequencer, q.waited = .found k →
            Qty.trailing.value ((t.pass b.params.val.tSample).withSeq q) = b.params.val.nZero - k - 1 := by
          intro q hq
          simp [Qty.value, State.trailingSamples, hq, htp]
        have hend : ∀ (u : State) (q4 : Sequencer), u.host = [] →
            eval (.act (.bitIs .zero)) (u.withSeq q4) = .done (u.withSeq { q4 with bit := .zero }) := by
          intro u q4 hu
          have hu' : (u.withSeq q4).host = [] := hu
          rw [eval_act _ hu']
          rfl
        have hgo3 : ∀ k', eval (.seq (.when .waitTimedOut (.seq (.act (.bitIs .one)) .ret)) (.seq (.delay (.lit b.params.val.tSample)) k'))
            (t.withSeq q3) = eval k' ((t.pass b.params.val.tSample).withSeq q3) := by
          intro k'
          rw [← hq3]
          exact hgo _ _ _ _ hs3 _ _
        dsimp only
        by_cases hz : 1 ≤ b.params.val.nZero - k - 1
        · have hc : Cond.trailingLeft.holds ((t.pass b.params.val.tSample).withSeq q3) = true := by
            have := hm q3 hq3w
            simp only [Qty.value] at this
            simp [Cond.holds, this, hz]
          have hw4 := eval_waitLevel .high .trailing (b.params.val.nZero - k - 1) (t.pass b.params.val.tSample) q3 hs3'
            (hm _ hq3w)
          simp only [State.pass_params, htp] at hw4
          obtain ⟨d4, -, p4⟩ := Reference.waitLevel_pass .high (b.params.val.nZero - k - 1) 0 (t.pass b.params.val.tSample)
          refine ⟨{ afterWait (Reference.waitLevel .high (b.params.val.nZero - k - 1) 0 (t.pass b.params.val.tSample)).1
            (b.params.val.nZero - k - 1) q3 with bit := .zero }, ?_, rfl, ?_⟩
          · apply eval_proc_done
            rw [eval_seq_done hw1, hgo _ _ _ _ hs1, eval_seq_done hw2, hgo _ _ _ _ hs2, eval_seq_done hw3, hgo3,
              eval_seq_done (by rw [eval_when_true _ hc, hw4]), hend]
            rw [p4]
            exact State.pass_host_nil _ _ hs3'
          · rw [← hq3f]
            rfl
        · have hz' : b.params.val.nZero - k - 1 = 0 := by omega
          have hc : Cond.trailingLeft.holds ((t.pass b.params.val.tSample).withSeq q3) = false := by
            have := hm q3 hq3w
            simp only [Qty.value] at this
            simp [Cond.holds, this, hz']
          refine ⟨{ q3 with bit := .zero }, ?_, rfl, by rw [← hq3f]; rfl⟩
          apply eval_proc_done
          rw [eval_seq_done hw1, hgo _ _ _ _ hs1, eval_seq_done hw2, hgo _ _ _ _ hs2, eval_seq_done hw3, hgo3,
            eval_when_seq_false _ _ hc, hend _ _ hs3', hz']
          rfl

end Sys2Proof.Machine
end

