-- ==== Sys2Proof/Laws/Frames.lean ====
section
/-! SUPPORT. What each procedure of Reference.lean leaves as it was. -/

namespace Sys2Proof.Reference

open Sys2Proof.Machine

/-- `t` comes from `b` by a procedure: only the wire, time, RX, RX_COUNT, COMM_STATE, the internal CRC
register, STATUS.SESSION_LOST, the sequencer and the waiting of the host's accesses may differ. -/
structure Keeps (b t : State) : Prop where
  params : t.params = b.params
  cmd : t.cmd = b.cmd
  active : t.status.active = b.status.active
  done : t.status.done = b.status.done
  cmdRejected : t.status.cmdRejected = b.status.cmdRejected
  result : t.result = b.result
  argLen : t.argLen = b.argLen
  argLevel : t.argLevel = b.argLevel
  argRspSize : t.argRspSize = b.argRspSize
  argExecDelay : t.argExecDelay = b.argExecDelay
  argExecTimeout : t.argExecTimeout = b.argExecTimeout
  crcResult : t.crcResult = b.crcResult
  tx : t.tx = b.tx
  dev : t.dev = b.dev
  resetIn : t.resetIn = b.resetIn
  reads : t.reads = b.reads
  freeCount : t.freeCount = b.freeCount
  quiet : b.host = [] → t.host = []

theorem Keeps.refl (b : State) : Keeps b b :=
  ⟨rfl, rfl, rfl, rfl, rfl, rfl, rfl, rfl, rfl, rfl, rfl, rfl, rfl, rfl, rfl, rfl, rfl, id⟩

theorem Keeps.trans {a b c : State} (h : Keeps a b) (k : Keeps b c) : Keeps a c :=
  ⟨k.1.trans h.1, k.2.trans h.2, k.3.trans h.3, k.4.trans h.4, k.5.trans h.5, k.6.trans h.6, k.7.trans h.7,
    k.8.trans h.8, k.9.trans h.9, k.10.trans h.10, k.11.trans h.11, k.12.trans h.12, k.13.trans h.13,
    k.14.trans h.14, k.15.trans h.15, k.16.trans h.16, k.17.trans h.17, fun e => k.18 (h.18 e)⟩

theorem keeps_pass (d : Nat) (b : State) : Keeps b (b.pass d) :=
  ⟨rfl, rfl, rfl, rfl, rfl, rfl, rfl, rfl, rfl, rfl, rfl, rfl, rfl, rfl, rfl, rfl, rfl, State.pass_host_nil d b⟩

theorem keeps_setDrive (l : Level) (b : State) : Keeps b (b.setDrive l) :=
  ⟨rfl, rfl, rfl, rfl, rfl, rfl, rfl, rfl, rfl, rfl, rfl, rfl, rfl, rfl, rfl, rfl, rfl, id⟩

theorem keeps_rx (m : Memory) (b : State) : Keeps b { b with rx := m } :=
  ⟨rfl, rfl, rfl, rfl, rfl, rfl, rfl, rfl, rfl, rfl, rfl, rfl, rfl, rfl, rfl, rfl, rfl, id⟩

theorem keeps_rxCount (n : Byte) (b : State) : Keeps b { b with rxCount := n } :=
  ⟨rfl, rfl, rfl, rfl, rfl, rfl, rfl, rfl, rfl, rfl, rfl, rfl, rfl, rfl, rfl, rfl, rfl, id⟩

theorem keeps_commState (c : CommState) (b : State) : Keeps b (setComm c b) :=
  ⟨rfl, rfl, rfl, rfl, rfl, rfl, rfl, rfl, rfl, rfl, rfl, rfl, rfl, rfl, rfl, rfl, rfl, id⟩

theorem keeps_loseSession (b : State) : Keeps b (loseSession b) :=
  ⟨rfl, rfl, rfl, rfl, rfl, rfl, rfl, rfl, rfl, rfl, rfl, rfl, rfl, rfl, rfl, rfl, rfl, id⟩

theorem keeps_checkFrame (b : State) : Keeps b (Action.run .checkFrame b) :=
  ⟨rfl, rfl, rfl, rfl, rfl, rfl, rfl, rfl, rfl, rfl, rfl, rfl, rfl, rfl, rfl, rfl, rfl, id⟩

theorem keeps_orRxBit (i k : Nat) (b : State) : Keeps b (b.orRxBit i k) := by
  unfold State.orRxBit State.writeRx
  split
  · exact keeps_rx _ b
  · exact Keeps.refl b

theorem keeps_zeroRx (n : Nat) (b : State) : Keeps b (b.zeroRx n) := keeps_rx _ b

theorem keeps_drive (gs : List Segment) (b : State) : Keeps b (drive gs b) := by
  induction gs generalizing b with
  | nil => exact Keeps.refl b
  | cons g gs ih => exact ((keeps_setDrive g.level b).trans (keeps_pass g.len _)).trans (ih _)

theorem keeps_sendBytes (bs : List Byte) (b : State) : Keeps b (sendBytes bs b) := keeps_drive _ b

theorem keeps_receiveBit (b : State) : Keeps b (receiveBit b).2 := by
  obtain ⟨d, -, h⟩ := receiveBit_pass b
  rw [h]
  exact keeps_pass d b

theorem keeps_receiveBits (ix n k : Nat) (b : State) : Keeps b (receiveBits ix n k b).2 := by
  induction n generalizing k b with
  | zero => exact Keeps.refl b
  | succ n ih =>
    have h := keeps_receiveBit b
    rw [receiveBits]
    rcases hr : receiveBit b with ⟨r, t⟩
    rw [hr] at h
    cases r with
    | timeout => exact h
    | zero => exact h.trans (ih _ _)
    | one => exact (h.trans (keeps_orRxBit _ _ _)).trans (ih _ _)

theorem keeps_receiveFrom (off n i : Nat) (b : State) : Keeps b (receiveFrom off n i b).2 := by
  induction n generalizing i b with
  | zero => exact keeps_rxCount _ b
  | succ n ih =>
    have h := keeps_receiveBits (off + i) 8 0 b
    rw [receiveFrom]
    rcases hr : receiveBits (off + i) 8 0 b with ⟨r, t⟩
    rw [hr] at h
    cases r with
    | false => exact h.trans (keeps_rxCount _ _)
    | true => exact h.trans (ih _ _)

theorem keeps_receiveBytes (off count : Nat) (b : State) : Keeps b (receiveBytes off count b).2 :=
  (keeps_setDrive .high b).trans (keeps_receiveFrom _ _ _ _)

theorem keeps_receiveFrame (b : State) : Keeps b (receiveFrame b).2 := by
  have h := ((keeps_zeroRx b.bound b).trans (keeps_sendBytes b.params.val.rxPrefix _)).trans
    (keeps_receiveBytes 0 1 _)
  rw [receiveFrame]
  rcases hr : receiveBytes 0 1 (sendBytes b.params.val.rxPrefix (b.zeroRx b.bound)) with ⟨r, t⟩
  rw [hr] at h
  cases r <;> try exact h
  dsimp only
  split
  · exact h
  · exact h.trans (keeps_receiveBytes _ _ _)

theorem keeps_wakePulse (b : State) : Keeps b (wakePulse b) := keeps_drive _ b

theorem keeps_wakeup (b : State) : Keeps b (wakeup b).2 := by
  have h := (((keeps_wakePulse b).trans (keeps_zeroRx 4 _)).trans (keeps_sendBytes b.params.val.rxPrefix _)).trans
    (keeps_receiveBytes 0 4 _)
  rw [wakeup]
  dsimp only
  split
  · exact h.trans (keeps_commState _ _)
  · exact (h.trans (keeps_commState _ _)).trans (keeps_pass _ _)

theorem keeps_rewake (b : State) : Keeps b (rewake b).2 := by
  have h := ((keeps_sendBytes [b.params.val.sleepByte] b).trans (keeps_commState .unknownAsleep _)).trans (keeps_wakeup _)
  rw [rewake]
  rcases hw : wakeup (setComm .unknownAsleep (sendBytes [b.params.val.sleepByte] b)) with ⟨w, u⟩
  rw [hw] at h
  cases w <;> first | exact h | exact h.trans (keeps_loseSession _)

theorem keeps_resync (b : State) : Keeps b (resync b).2 := by
  have h := (keeps_pass b.params.val.tSyncTimeout b).trans (keeps_receiveFrame _)
  rw [resync]
  rcases hr : receiveFrame (b.pass b.params.val.tSyncTimeout) with ⟨r, t⟩
  rw [hr] at h
  cases r
  case success => exact h.trans (keeps_commState _ _)
  all_goals exact h.trans (keeps_rewake t)

theorem keeps_pollReceive (n : Nat) (b : State) : Keeps b (pollReceive n b).2 := by
  induction n generalizing b with
  | zero => exact Keeps.refl b
  | succ n ih =>
    have h := keeps_receiveFrame b
    rw [pollReceive]
    rcases hr : receiveFrame b with ⟨r, t⟩
    rw [hr] at h
    cases r <;> try exact h
    dsimp only
    split
    · exact (h.trans (keeps_pass _ _)).trans (ih _)
    · exact h.trans (ih _)

theorem keeps_transmit (b : State) : Keeps b (transmit b) :=
  ((keeps_sendBytes _ b).trans (keeps_commState .deviceBusy _)).trans (keeps_pass _ _)

theorem keeps_recover (b : State) : Keeps b (recover b).2 := by
  have h := keeps_resync b
  rw [recover]
  rcases hr : resync b with ⟨r, t⟩
  rw [hr] at h
  cases r <;> exact h

theorem keeps_recoverAndResend (b : State) : Keeps b (recoverAndResend b).2 := by
  have h := keeps_resync b
  rw [recoverAndResend]
  rcases hr : resync b with ⟨r, t⟩
  rw [hr] at h
  cases r <;> exact h

theorem keeps_receiveOnce (b : State) : Keeps b (receiveOnce b).2 := by
  have h := keeps_pollReceive b.nPoll b
  rw [receiveOnce]
  rcases hr : pollReceive b.nPoll b with ⟨r, t⟩
  rw [hr] at h
  cases r
  case rxTimeout => exact h.trans (keeps_recoverAndResend t)
  case success =>
    have hc := h.trans (keeps_checkFrame t)
    dsimp only
    split
    · exact hc.trans (keeps_commState _ _)
    · exact hc.trans (keeps_recover _)
  all_goals exact h.trans (keeps_recover t)

theorem keeps_receiveRetry (n : Nat) (b : State) : Keeps b (receiveRetry n b).2 := by
  induction n generalizing b with
  | zero => exact Keeps.refl b
  | succ n ih =>
    have h := keeps_receiveOnce b
    rw [receiveRetry]
    rcases hr : receiveOnce b with ⟨r, t⟩
    rw [hr] at h
    cases r with
    | some e => exact h
    | none => exact h.trans (ih _)

theorem keeps_sendRetry (n : Nat) (e : Escalation) (b : State) : Keeps b (sendRetry n e b).2 := by
  induction n generalizing e b with
  | zero => cases e <;> exact Keeps.refl b
  | succ n ih =>
    have h := (keeps_transmit b).trans (keeps_receiveRetry b.params.val.nRecvAttempts (transmit b))
    rw [sendRetry]
    rcases hr : receiveRetry b.params.val.nRecvAttempts (transmit b) with ⟨r, t⟩
    rw [hr] at h
    cases r with
    | finished c => exact h
    | resend e => exact h.trans (ih _ _)

end Sys2Proof.Reference
end

