-- ==== Sys2Proof/Laws/Receive.lean ====
section
/-! SUPPORT. The receiving procedures: the sequencer's run of each is the function of Reference.lean of
the same name, where no host access is to come. -/

namespace Sys2Proof.Machine

open Sys2Proof

/-- All of the sequencer's registers but those ReceiveBit and the bit counter use. -/
def Sequencer.forgetBits (q : Sequencer) : Sequencer := { q.forgetBit with bitIx := 0 }

theorem Sequencer.forgetBits_of_forgetBit {q r : Sequencer} (h : q.forgetBit = r.forgetBit) :
    q.forgetBits = r.forgetBits := by
  rw [Sequencer.forgetBits, h]
  rfl

theorem Sequencer.forgetBytes_of_forgetBits {q r : Sequencer} (h : q.forgetBits = r.forgetBits) :
    q.forgetBytes = r.forgetBytes := by
  have : ∀ q : Sequencer, q.forgetBytes =
      { q.forgetBits with off := 0, count := 0, byteIx := 0, st := .success } := fun _ => rfl
  rw [this q, this r, h]

/-- `RX_COUNT <- n` -/
def State.setRxCount (n : Nat) (s : State) : State := { s with rxCount := BitVec.ofNat 8 n }

/-- One bit of ReceiveBytes (40_transceiver.md R108). -/
theorem eval_receiveOneBit (b : State) (q : Sequencer) (hb : b.host = []) :
    ∃ q', match Reference.receiveBit b with
      | (.timeout, t) =>
        eval (receiveOneBitCode b.params.val) (b.withSeq q) = .ret ((t.setRxCount (q.off + q.byteIx)).withSeq q') ∧
          q'.st = (if q.off + q.byteIx = 0 then .rxTimeout else .rxPartial) ∧ q'.forgetBytes = q.forgetBytes
      | (.one, t) =>
        eval (receiveOneBitCode b.params.val) (b.withSeq q) = .done ((t.orRxBit (q.off + q.byteIx) q.bitIx).withSeq q') ∧
          q'.bitIx = q.bitIx + 1 ∧ q'.forgetBits = q.forgetBits
      | (.zero, t) =>
        eval (receiveOneBitCode b.params.val) (b.withSeq q) = .done (t.withSeq q') ∧
          q'.bitIx = q.bitIx + 1 ∧ q'.forgetBits = q.forgetBits := by
  obtain ⟨q1, h1, hbit, hf⟩ := eval_receiveBit b q hb
  have hk := Reference.keeps_receiveBit b
  rcases hr : Reference.receiveBit b with ⟨r, t⟩
  rw [hr] at h1 hbit hk
  dsimp only at h1 hbit hk
  have ht : (t.withSeq q1).host = [] := hk.quiet hb
  have hoff : q1.off = q.off := (congrArg Sequencer.off hf :)
  have hbyte : q1.byteIx = q.byteIx := (congrArg Sequencer.byteIx hf :)
  have hix : q1.bitIx = q.bitIx := (congrArg Sequencer.bitIx hf :)
  have hfb := Sequencer.forgetBits_of_forgetBit hf
  have hc : ∀ c, (Cond.bitIs c).holds (t.withSeq q1) = (r == c) := by
    intro c
    rw [← hbit]
    rfl
  unfold receiveOneBitCode
  simp only [Stmt.block_cons, Stmt.block_one]
  cases r with
  | timeout =>
    refine ⟨{ q1 with st := if q.off + q.byteIx = 0 then .rxTimeout else .rxPartial }, ?_, rfl, ?_⟩
    · rw [eval_seq_done h1, eval_seq_ret]
      rw [eval_when_true _ (by rw [hc]; rfl), eval_act_seq _ _ ht]
      rw [← hoff, ← hbyte]
      rfl
    · rw [← Sequencer.forgetBytes_of_forgetBits hfb]
      rfl
  | one =>
    refine ⟨{ q1 with bitIx := q1.bitIx + 1 }, ?_, by rw [← hix], by rw [← hfb]; rfl⟩
    have hor : Action.run .orBit (t.withSeq q1) = (t.orRxBit (q.off + q.byteIx) q.bitIx).withSeq q1 := by
      rw [← hoff, ← hbyte, ← hix]
      exact State.orRxBit_withSeq _ _ _ _
    have hto : ((t.orRxBit (q.off + q.byteIx) q.bitIx).withSeq q1).host = [] :=
      (Reference.keeps_orRxBit _ _ t).quiet ht
    rw [eval_seq_done h1, eval_when_seq_false _ _ (by rw [hc]; rfl),
      eval_seq_done (by rw [eval_when_true _ (by rw [hc]; rfl), eval_act _ ht, hor]), eval_act _ hto]
    rfl
  | zero =>
    refine ⟨{ q1 with bitIx := q1.bitIx + 1 }, ?_, by rw [← hix], by rw [← hfb]; rfl⟩
    rw [eval_seq_done h1, eval_when_seq_false _ _ (by rw [hc]; rfl), eval_when_seq_false _ _ (by rw [hc]; rfl),
      eval_act _ ht]
    rfl

/-- The bit loop of ReceiveBytes, from bit `k` on (40_transceiver.md R108). -/
theorem iterate_receiveOneBit (n k : Nat) (b : State) (q : Sequencer) (hb : b.host = []) (hk : q.bitIx = k) :
    ∃ q', match Reference.receiveBits (q.off + q.byteIx) n k b with
      | (true, t) =>
        iterate (eval (receiveOneBitCode b.params.val)) (receiveOneBitCode b.params.val) n (b.withSeq q) =
            .done (t.withSeq q') ∧
          q'.forgetBits = q.forgetBits
      | (false, t) =>
        iterate (eval (receiveOneBitCode b.params.val)) (receiveOneBitCode b.params.val) n (b.withSeq q) =
            .ret ((t.setRxCount (q.off + q.byteIx)).withSeq q') ∧
          q'.st = (if q.off + q.byteIx = 0 then .rxTimeout else .rxPartial) ∧ q'.forgetBytes = q.forgetBytes := by
  induction n generalizing k b q with
  | zero => exact ⟨q, rfl, rfl⟩
  | succ n ih =>
    obtain ⟨q1, h1⟩ := eval_receiveOneBit b q hb
    have hkp := Reference.keeps_receiveBit b
    rw [Reference.receiveBits]
    rcases hr : Reference.receiveBit b with ⟨r, t⟩
    rw [hr] at h1 hkp
    dsimp only at hkp
    have ht := hkp.quiet hb
    have hp : t.params = b.params := hkp.params
    subst hk
    cases r with
    | timeout =>
      refine ⟨q1, ?_, h1.2⟩
      rw [iterate, h1.1]
      rfl
    | one =>
      obtain ⟨he, hix, hf⟩ := h1
      have hoff : q1.off = q.off := (congrArg Sequencer.off hf :)
      have hbyte : q1.byteIx = q.byteIx := (congrArg Sequencer.byteIx hf :)
      have hko := Reference.keeps_orRxBit (q.off + q.byteIx) q.bitIx t
      obtain ⟨q2, h2⟩ := ih (q.bitIx + 1) (t.orRxBit (q.off + q.byteIx) q.bitIx) q1 (hko.quiet ht) hix
      rw [hoff, hbyte, hko.params, hp] at h2
      refine ⟨q2, ?_⟩
      have hu : iterate (eval (receiveOneBitCode b.params.val)) (receiveOneBitCode b.params.val) (n + 1) (b.withSeq q) =
          iterate (eval (receiveOneBitCode b.params.val)) (receiveOneBitCode b.params.val) n
            ((t.orRxBit (q.off + q.byteIx) q.bitIx).withSeq q1) := by
        rw [iterate, he]
        rfl
      dsimp only
      rw [hu]
      rcases hm : Reference.receiveBits (q.off + q.byteIx) n (q.bitIx + 1) (t.orRxBit (q.off + q.byteIx) q.bitIx) with ⟨m, u⟩
      rw [hm] at h2
      cases m with
      | true => exact ⟨h2.1, h2.2.trans hf⟩
      | false => exact ⟨h2.1, h2.2.1, h2.2.2.trans (Sequencer.forgetBytes_of_forgetBits hf)⟩
    | zero =>
      obtain ⟨he, hix, hf⟩ := h1
      have hoff : q1.off = q.off := (congrArg Sequencer.off hf :)
      have hbyte : q1.byteIx = q.byteIx := (congrArg Sequencer.byteIx hf :)
      obtain ⟨q2, h2⟩ := ih (q.bitIx + 1) t q1 ht hix
      rw [hoff, hbyte, hp] at h2
      refine ⟨q2, ?_⟩
      have hu : iterate (eval (receiveOneBitCode b.params.val)) (receiveOneBitCode b.params.val) (n + 1) (b.withSeq q) =
          iterate (eval (receiveOneBitCode b.params.val)) (receiveOneBitCode b.params.val) n (t.withSeq q1) := by
        rw [iterate, he]
        rfl
      dsimp only
      rw [hu]
      rcases hm : Reference.receiveBits (q.off + q.byteIx) n (q.bitIx + 1) t with ⟨m, u⟩
      rw [hm] at h2
      cases m with
      | true => exact ⟨h2.1, h2.2.trans hf⟩
      | false => exact ⟨h2.1, h2.2.1, h2.2.2.trans (Sequencer.forgetBytes_of_forgetBits hf)⟩

/-- The loop body of ReceiveBytes for one byte. -/
def byteBody (p : Params) : Stmt :=
  .block [.act .firstBit, .loop (.lit 8) (receiveOneBitCode p), .act .nextByte]

/-- One byte of ReceiveBytes (40_transceiver.md R108). -/
theorem eval_byteBody (b : State) (q : Sequencer) (hb : b.host = []) :
    ∃ q', match Reference.receiveBits (q.off + q.byteIx) 8 0 b with
      | (true, t) =>
        eval (byteBody b.params.val) (b.withSeq q) = .done (t.withSeq q') ∧
          q'.byteIx = q.byteIx + 1 ∧ q'.off = q.off ∧ q'.count = q.count ∧ q'.forgetBytes = q.forgetBytes
      | (false, t) =>
        eval (byteBody b.params.val) (b.withSeq q) = .ret ((t.setRxCount (q.off + q.byteIx)).withSeq q') ∧
          q'.st = (if q.off + q.byteIx = 0 then .rxTimeout else .rxPartial) ∧ q'.forgetBytes = q.forgetBytes := by
  have hq : (b.withSeq q).host = [] := hb
  obtain ⟨q1, h1⟩ := iterate_receiveOneBit 8 0 b { q with bitIx := 0 } hb rfl
  have hk := Reference.keeps_receiveBits (q.off + q.byteIx) 8 0 b
  have hcode : eval (byteBody b.params.val) (b.withSeq q) =
      (iterate (eval (receiveOneBitCode b.params.val)) (receiveOneBitCode b.params.val) 8
        (b.withSeq { q with bitIx := 0 })).andThen (.act .nextByte) (eval (.act .nextByte)) := by
    rw [byteBody, Stmt.block_cons, eval_act_seq _ _ hq, Stmt.block_cons, Stmt.block_one, eval, eval]
    rfl
  rw [hcode]
  dsimp only at h1
  rcases hr : Reference.receiveBits (q.off + q.byteIx) 8 0 b with ⟨r, t⟩
  rw [hr] at h1 hk
  dsimp only at hk
  cases r with
  | true =>
    obtain ⟨he, hf⟩ := h1
    have ht : (t.withSeq q1).host = [] := hk.quiet hb
    have hoff : q1.off = q.off := (congrArg Sequencer.off hf :)
    have hcount : q1.count = q.count := (congrArg Sequencer.count hf :)
    have hbyte : q1.byteIx = q.byteIx := (congrArg Sequencer.byteIx hf :)
    refine ⟨{ q1 with byteIx := q1.byteIx + 1 }, ?_, by rw [← hbyte], hoff, hcount, ?_⟩
    · rw [he]
      exact eval_act _ ht
    · have := Sequencer.forgetBytes_of_forgetBits hf
      rw [show q.forgetBytes = ({ q with bitIx := 0 } : Sequencer).forgetBytes from rfl, ← this]
      rfl
  | false =>
    obtain ⟨he, hst, hf⟩ := h1
    refine ⟨q1, ?_, hst, hf⟩
    rw [he]
    rfl

/-- The byte loop of ReceiveBytes, from the byte of the byte counter on (40_transceiver.md R108). -/
theorem iterate_byteBody (n : Nat) (b : State) (q : Sequencer) (hb : b.host = []) :
    ∃ (q' : Sequencer) (u : State),
      ((Reference.receiveFrom q.off n q.byteIx b).1 = .success ∧
        iterate (eval (byteBody b.params.val)) (byteBody b.params.val) n (b.withSeq q) = .done (u.withSeq q') ∧
        (Reference.receiveFrom q.off n q.byteIx b).2 = u.setRxCount (q.off + (q.byteIx + n)) ∧
        q'.off = q.off ∧ q'.count = q.count ∧ q'.forgetBytes = q.forgetBytes) ∨
      ((Reference.receiveFrom q.off n q.byteIx b).1 ≠ .success ∧
        iterate (eval (byteBody b.params.val)) (byteBody b.params.val) n (b.withSeq q) =
          .ret ((Reference.receiveFrom q.off n q.byteIx b).2.withSeq q') ∧
        q'.st = (Reference.receiveFrom q.off n q.byteIx b).1 ∧ q'.forgetBytes = q.forgetBytes) := by
  induction n generalizing b q with
  | zero => exact ⟨q, b, .inl ⟨rfl, rfl, rfl, rfl, rfl, rfl⟩⟩
  | succ n ih =>
    obtain ⟨q1, h1⟩ := eval_byteBody b q hb
    have hk := Reference.keeps_receiveBits (q.off + q.byteIx) 8 0 b
    rw [Reference.receiveFrom]
    rcases hr : Reference.receiveBits (q.off + q.byteIx) 8 0 b with ⟨r, t⟩
    rw [hr] at h1 hk
    dsimp only at hk
    cases r with
    | false =>
      obtain ⟨he, hst, hf⟩ := h1
      refine ⟨q1, b, .inr ⟨?_, ?_, hst, hf⟩⟩
      · dsimp only
        split <;> simp
      · rw [iterate, he]
        rfl
    | true =>
      obtain ⟨he, hbyte, hoff, hcount, hf⟩ := h1
      have hu : iterate (eval (byteBody b.params.val)) (byteBody b.params.val) (n + 1) (b.withSeq q) =
          iterate (eval (byteBody t.params.val)) (byteBody t.params.val) n (t.withSeq q1) := by
        rw [iterate, he, hk.params]
        rfl
      rw [hu]
      have hn : q.off + (q.byteIx + (n + 1)) = q1.off + (q1.byteIx + n) := by omega
      obtain ⟨q2, u, h2⟩ := ih t q1 (hk.quiet hb)
      rw [hn]
      dsimp only
      rw [← hoff, ← hbyte]
      refine ⟨q2, u, ?_⟩
      rcases h2 with ⟨a1, a2, a3, a4, a5, a6⟩ | ⟨a1, a2, a3, a4⟩
      · exact .inl ⟨a1, a2, a3, a4, a5.trans hcount, a6.trans hf⟩
      · exact .inr ⟨a1, a2, a3, a4.trans hf⟩

/-- ReceiveBytes (40_transceiver.md R108): its result is in `st`. -/
theorem eval_receiveBytes (off : Nat) (c : Qty) (count : Nat) (b : State) (q : Sequencer) (hb : b.host = [])
    (hc : c.value (b.withSeq q) = count) :
    ∃ q', eval (receiveBytesCode b.params.val off c) (b.withSeq q) =
        .done ((Reference.receiveBytes off count b).2.withSeq q') ∧
      q'.st = (Reference.receiveBytes off count b).1 ∧ q'.forgetBytes = q.forgetBytes := by
  have hq : (b.withSeq q).host = [] := hb
  have hb' : (b.setDrive .high).host = [] := hb
  have hp : (b.setDrive .high).params = b.params := rfl
  obtain ⟨q1, u, h1⟩ := iterate_byteBody count (b.setDrive .high)
    { q with off := off, count := count, byteIx := 0 } hb'
  have hk := Reference.keeps_receiveBytes off count b
  have hcode : eval (receiveBytesCode b.params.val off c) (b.withSeq q) =
      ((iterate (eval (byteBody b.params.val)) (byteBody b.params.val) count
        ((b.setDrive .high).withSeq { q with off := off, count := count, byteIx := 0 })).andThen (.act .receiveDone)
          (eval (.act .receiveDone))).returned := by
    have hs1 : (Action.run (.callReceive off c) (b.withSeq q)) = b.withSeq { q with off := off, count := count } := by
      simp only [Action.run, hc]
      rfl
    have hs2 : Action.run .release (b.withSeq { q with off := off, count := count }) =
        (b.setDrive .high).withSeq { q with off := off, count := count } := rfl
    have hs3 : Action.run .firstByte ((b.setDrive .high).withSeq { q with off := off, count := count }) =
        (b.setDrive .high).withSeq { q with off := off, count := count, byteIx := 0 } := rfl
    rw [receiveBytesCode, eval]
    congr 1
    rw [Stmt.block_cons, eval_act_seq _ _ hq, hs1, Stmt.block_cons, eval_act_seq _ _ (by exact hb), hs2,
      Stmt.block_cons, eval_act_seq _ _ (by exact hb), hs3, Stmt.block_cons, Stmt.block_one, eval]
    congr 1
  rw [hcode]
  dsimp only at h1
  rw [hp, Nat.zero_add] at h1
  unfold Reference.receiveBytes at hk ⊢
  rcases hr : Reference.receiveFrom off count 0 (b.setDrive .high) with ⟨r, t⟩
  rw [hr] at h1 hk
  dsimp only at h1 hk ⊢
  rcases h1 with ⟨a1, a2, a3, a4, a5, a6⟩ | ⟨a1, a2, a3, a4⟩
  · subst a1
    have hu : (u.withSeq q1).host = [] := by
      have := hk.quiet hb
      rw [a3] at this
      exact this
    refine ⟨{ q1 with st := .success }, ?_, rfl, ?_⟩
    · rw [a2, Res.andThen, eval_act _ hu, a3, ← a4, show count = q1.count from a5.symm]
      rfl
    · rw [show q.forgetBytes = ({ q with off := off, count := count, byteIx := 0 } : Sequencer).forgetBytes from rfl, ← a6]
      rfl
  · refine ⟨q1, ?_, a3, a4⟩
    rw [a2]
    rfl

end Sys2Proof.Machine
end

