-- ==== Sys2Proof/Laws/Framing.lean ====
section
/-! SUPPORT. The framer's procedures: the sequencer's run of each is the function of Reference.lean of
the same name, where no host access is to come. -/

namespace Sys2Proof.Machine

open Sys2Proof

@[simp] theorem sendBytes_withSeq (bs : List Byte) (q : Sequencer) (b : State) :
    Reference.sendBytes bs (b.withSeq q) = (Reference.sendBytes bs b).withSeq q :=
  Reference.drive_withSeq _ q b

theorem sendBytes_nil (b : State) : Reference.sendBytes [] b = b := rfl

theorem stIs_holds (c : ResultCode) (q : Sequencer) (b : State) : (Cond.stIs c).holds (b.withSeq q) = (q.st == c) := rfl

theorem rsIs_holds (r : ResyncOutcome) (q : Sequencer) (b : State) : (Cond.rsIs r).holds (b.withSeq q) = (q.rs == r) := rfl

/-- `if len(RX_PREFIX) > 0: SendBytes(RX_PREFIX)` -/
theorem eval_sendRxPrefix_seq (k : Stmt) (b : State) (q : Sequencer) (hb : b.host = []) :
    eval (.seq sendRxPrefixCode k) (b.withSeq q) =
      eval k ((Reference.sendBytes b.params.val.rxPrefix b).withSeq q) := by
  have hq : (b.withSeq q).host = [] := hb
  by_cases h : 0 < b.params.val.rxPrefix.length
  · have hc : Cond.hasRxPrefix.holds (b.withSeq q) = true := decide_eq_true h
    rw [sendRxPrefixCode, eval_seq_done (by rw [eval_when_true _ hc, eval_send _ hq])]
    simp [Source.bytes]
  · have hc : Cond.hasRxPrefix.holds (b.withSeq q) = false := decide_eq_false h
    have hn : b.params.val.rxPrefix = [] := by
      cases hl : b.params.val.rxPrefix with
      | nil => rfl
      | cons a as => simp [hl] at h
    rw [sendRxPrefixCode, eval_when_seq_false _ _ hc, hn]
    rfl

/-- ReceiveFrame (42_framer.md R152): its result is in `st`. -/
theorem eval_receiveFrame (b : State) (q : Sequencer) (hb : b.host = []) :
    ∃ q', eval (receiveFrameCode b.params.val) (b.withSeq q) = .done ((Reference.receiveFrame b).2.withSeq q') ∧
      q'.st = (Reference.receiveFrame b).1 ∧ q'.forgetBytes = q.forgetBytes := by
  have hq : (b.withSeq q).host = [] := hb
  have hz : Action.run (.zeroRx .rspSize) (b.withSeq q) = (b.zeroRx b.bound).withSeq q := rfl
  have hbz : (b.zeroRx b.bound).host = [] := hb
  have hk0 := (Reference.keeps_zeroRx b.bound b).trans (Reference.keeps_sendBytes b.params.val.rxPrefix _)
  have hpz : (b.zeroRx b.bound).params = b.params := rfl
  generalize hs : Reference.sendBytes b.params.val.rxPrefix (b.zeroRx b.bound) = s at hk0
  obtain ⟨q1, h1, hst1, hf1⟩ := eval_receiveBytes 0 (.lit 1) 1 s q (hk0.quiet hb) rfl
  have hk1 := hk0.trans (Reference.keeps_receiveBytes 0 1 s)
  rw [hk0.params] at h1
  unfold receiveFrameCode
  simp only [Stmt.block_cons, Stmt.block_one]
  rcases hr : Reference.receiveBytes 0 1 s with ⟨r, t⟩
  rw [hr] at h1 hst1 hk1
  dsimp only at h1 hst1 hk1
  have ht : (t.withSeq q1).host = [] := hk1.quiet hb
  have hpre : ∀ k : Stmt, eval (.seq (.act (.zeroRx .rspSize)) (.seq sendRxPrefixCode
      (.seq (receiveBytesCode b.params.val 0 (.lit 1)) k))) (b.withSeq q) = eval k (t.withSeq q1) := by
    intro k
    rw [eval_act_seq _ _ hq, hz, eval_sendRxPrefix_seq _ _ _ hbz, hpz, hs, eval_seq_done h1]
  by_cases hsucc : r = .success
  · subst hsucc
    have hc1 : (Cond.stIs .success).holds (t.withSeq q1) = true := by rw [stIs_holds, hst1]; rfl
    have hR : Reference.receiveFrame b =
        if t.lengthIllegal then (.invalidFrameSize, t) else Reference.receiveBytes 1 (t.rx.frameLen - 1) t := by
      rw [Reference.receiveFrame, hs, hr]
    rw [hR]
    by_cases hl : t.lengthIllegal = true
    · have hc2 : Cond.lengthIllegal.holds (t.withSeq q1) = true := hl
      refine ⟨{ q1 with st := .invalidFrameSize }, ?_, by rw [if_pos hl], by rw [← hf1]; rfl⟩
      rw [if_pos hl]
      apply eval_proc_ret
      rw [hpre, eval_seq_done (by rw [eval_ite_true _ _ hc1]; rfl), eval_seq_ret]
      rw [eval_when_true _ hc2, eval_act_seq _ _ ht]
      rfl
    · have hc2 : Cond.lengthIllegal.holds (t.withSeq q1) = false := Bool.eq_false_iff.mpr hl
      obtain ⟨q2, h2, hst2, hf2⟩ := eval_receiveBytes 1 .bytesLeft (t.rx.frameLen - 1) t q1 (hk1.quiet hb) rfl
      rw [hk1.params] at h2
      refine ⟨q2, ?_, by rw [if_neg hl, hst2], hf2.trans hf1⟩
      rw [if_neg hl]
      apply eval_proc_done
      rw [hpre, eval_seq_done (by rw [eval_ite_true _ _ hc1]; rfl), eval_when_seq_false _ _ hc2, h2]
  · have hc1 : (Cond.stIs .success).holds (t.withSeq q1) = false := by
      rw [stIs_holds, hst1]
      simpa using hsucc
    have hR : Reference.receiveFrame b = (r, t) := by
      rw [Reference.receiveFrame, hs, hr]
      cases r <;> first | contradiction | rfl
    rw [hR]
    refine ⟨q1, ?_, hst1, hf1⟩
    apply eval_proc_ret
    rw [hpre, eval_seq_ret]
    rw [eval_ite_false _ _ hc1]
    rfl

/-- Wakeup (42_framer.md R153): its result is in `st`. -/
theorem eval_wakeup (b : State) (q : Sequencer) (hb : b.host = []) :
    ∃ q', eval (wakeupCode b.params.val) (b.withSeq q) = .done ((Reference.wakeup b).2.withSeq q') ∧
      q'.st = (Reference.wakeup b).1 ∧ q'.forgetBytes = q.forgetBytes := by
  have hq : (b.withSeq q).host = [] := hb
  have hkw := Reference.keeps_wakePulse b
  have hkz := hkw.trans (Reference.keeps_zeroRx 4 _)
  have hk0 := hkz.trans (Reference.keeps_sendBytes b.params.val.rxPrefix _)
  have hd : Reference.drive (wakeTokens b.params.val) (b.withSeq q) = (Reference.wakePulse b).withSeq q :=
    Reference.drive_withSeq _ _ _
  have hz : Action.run (.zeroRx (.lit 4)) ((Reference.wakePulse b).withSeq q) = ((Reference.wakePulse b).zeroRx 4).withSeq q := rfl
  generalize hs : Reference.sendBytes b.params.val.rxPrefix ((Reference.wakePulse b).zeroRx 4) = s at hk0
  obtain ⟨q1, h1, hst1, hf1⟩ := eval_receiveBytes 0 (.lit 4) 4 s q (hk0.quiet hb) rfl
  have hk1 := hk0.trans (Reference.keeps_receiveBytes 0 4 s)
  rw [hk0.params] at h1
  unfold wakeupCode Reference.wakeup
  simp only [Stmt.block_cons, Stmt.block_one]
  rw [hs]
  rcases hr : Reference.receiveBytes 0 4 s with ⟨r, t⟩
  rw [hr] at h1 hst1 hk1
  dsimp only at h1 hst1 hk1 ⊢
  have ht : (t.withSeq q1).host = [] := hk1.quiet hb
  have hj : Action.run .judgeWake (t.withSeq q1) = t.withSeq { q1 with st := wakeVerdict b.params.val r t.rx } := by
    rw [← hst1, ← hk1.params]
    rfl
  have ht2 : (t.withSeq { q1 with st := wakeVerdict b.params.val r t.rx }).host = [] := ht
  have hpre : ∀ k : Stmt, eval (.seq (.drives (wakeTokens b.params.val)) (.seq (.act (.zeroRx (.lit 4)))
      (.seq sendRxPrefixCode (.seq (receiveBytesCode b.params.val 0 (.lit 4)) (.seq (.act .judgeWake) k))))) (b.withSeq q) =
      eval k (t.withSeq { q1 with st := wakeVerdict b.params.val r t.rx }) := by
    intro k
    rw [eval_drives_seq _ _ hq, hd, eval_act_seq _ _ (by exact hkw.quiet hb), hz, eval_sendRxPrefix_seq _ _ _ (by exact hkz.quiet hb),
      hkz.params, hs, eval_seq_done h1, eval_act_seq _ _ ht, hj]
  rw [hpre]
  have hf : ({ q1 with st := wakeVerdict b.params.val r t.rx } : Sequencer).forgetBytes = q.forgetBytes := by
    rw [← hf1]
    rfl
  by_cases hw : wakeVerdict b.params.val r t.rx = .success
  · rw [eval_ite_true _ _ (by rw [stIs_holds, hw]; rfl), if_pos hw, eval_act _ ht2]
    exact ⟨_, rfl, rfl, hf⟩
  · rw [eval_ite_false _ _ (by rw [stIs_holds]; simpa using hw), if_neg hw, eval_act_seq _ _ ht2,
      eval_delay _ (by exact ht2)]
    exact ⟨_, rfl, rfl, hf⟩

/-- What Resync leaves of the sequencer's registers: all but its own. -/
def Sequencer.forgetSync (q : Sequencer) : Sequencer := { q.forgetBytes with rs := .synced }

theorem Sequencer.forgetSync_of_forgetBytes {q r : Sequencer} (h : q.forgetBytes = r.forgetBytes) :
    q.forgetSync = r.forgetSync := by
  rw [Sequencer.forgetSync, h]
  rfl

/-- Step 2 of Resync. -/
def rewakeTail (p : Params) : Stmt :=
  .block [
    .send .sleepByte,
    .act (.setComm .unknownAsleep),
    wakeupCode p,
    .when (.stIs .success) (.block [.act .setSessionLost, .act (.setRs .rewoken), .ret]),
    .act (.setRs .unreachable)]

/-- Step 2 of Resync (42_framer.md R154): its result is in `rs`. -/
theorem eval_rewakeTail (b : State) (q : Sequencer) (hb : b.host = []) :
    ∃ q', (eval (rewakeTail b.params.val) (b.withSeq q) = .done ((Reference.rewake b).2.withSeq q') ∨
        eval (rewakeTail b.params.val) (b.withSeq q) = .ret ((Reference.rewake b).2.withSeq q')) ∧
      q'.rs = (Reference.rewake b).1 ∧ q'.forgetSync = q.forgetSync := by
  have hq : (b.withSeq q).host = [] := hb
  have hks := Reference.keeps_sendBytes [b.params.val.sleepByte] b
  have hk2 := hks.trans (Reference.keeps_commState .unknownAsleep _)
  generalize hs : Reference.setComm .unknownAsleep (Reference.sendBytes [b.params.val.sleepByte] b) = s at hk2
  obtain ⟨q2, h2, hst2, hf2⟩ := eval_wakeup s q (hk2.quiet hb)
  have hk3 := hk2.trans (Reference.keeps_wakeup s)
  rw [hk2.params] at h2
  have hsend : Reference.sendBytes (Source.bytes .sleepByte (b.withSeq q)) (b.withSeq q) =
      (Reference.sendBytes [b.params.val.sleepByte] b).withSeq q := sendBytes_withSeq _ _ _
  have hcomm : Action.run (.setComm .unknownAsleep) ((Reference.sendBytes [b.params.val.sleepByte] b).withSeq q) =
      s.withSeq q := by rw [← hs]; rfl
  have hsh : ((Reference.sendBytes [b.params.val.sleepByte] b).withSeq q).host = [] := hks.quiet hb
  rcases hw : Reference.wakeup s with ⟨w, u⟩
  rw [hw] at h2 hst2 hk3
  dsimp only at h2 hst2 hk3
  have hu : (u.withSeq q2).host = [] := hk3.quiet hb
  have hff : ∀ r, ({ q2 with rs := r } : Sequencer).forgetSync = q.forgetSync := by
    intro r
    rw [← Sequencer.forgetSync_of_forgetBytes hf2]
    rfl
  have hgo : eval (rewakeTail b.params.val) (b.withSeq q) =
      eval (.seq (.when (.stIs .success) (.seq (.act .setSessionLost) (.seq (.act (.setRs .rewoken)) .ret)))
        (.act (.setRs .unreachable))) (u.withSeq q2) := by
    rw [rewakeTail]
    simp only [Stmt.block_cons, Stmt.block_one]
    rw [eval_send_seq _ _ hq, hsend, eval_act_seq _ _ hsh, hcomm, eval_seq_done h2]
  rw [hgo]
  by_cases hws : w = .success
  · subst hws
    have hW : Reference.rewake b = (.rewoken, Reference.loseSession u) := by rw [Reference.rewake, hs, hw]
    rw [hW]
    refine ⟨{ q2 with rs := .rewoken }, .inr ?_, rfl, hff _⟩
    rw [eval_seq_ret]
    rw [eval_when_true _ (by rw [stIs_holds, hst2]; rfl), eval_act_seq _ _ hu, eval_act_seq _ _ (by exact hu)]
    rfl
  · have hW : Reference.rewake b = (.unreachable, u) := by
      rw [Reference.rewake, hs, hw]
      cases w <;> first | contradiction | rfl
    rw [hW]
    refine ⟨{ q2 with rs := .unreachable }, .inl ?_, rfl, hff _⟩
    rw [eval_when_seq_false _ _ (by rw [stIs_holds, hst2]; simpa using hws), eval_act _ hu]
    rfl

/-- Resync (42_framer.md R154): its result is in `rs`. -/
theorem eval_resync (b : State) (q : Sequencer) (hb : b.host = []) :
    ∃ q', eval (resyncCode b.params.val) (b.withSeq q) = .done ((Reference.resync b).2.withSeq q') ∧
      q'.rs = (Reference.resync b).1 ∧ q'.forgetSync = q.forgetSync := by
  have hq : (b.withSeq q).host = [] := hb
  have hk0 := Reference.keeps_pass b.params.val.tSyncTimeout b
  obtain ⟨q1, h1, hst1, hf1⟩ := eval_receiveFrame (b.pass b.params.val.tSyncTimeout) q (hk0.quiet hb)
  have hk1 := hk0.trans (Reference.keeps_receiveFrame _)
  rw [hk0.params] at h1
  rcases hr : Reference.receiveFrame (b.pass b.params.val.tSyncTimeout) with ⟨r, t⟩
  rw [hr] at h1 hst1 hk1
  dsimp only at h1 hst1 hk1
  have ht : (t.withSeq q1).host = [] := hk1.quiet hb
  have hd : ((b.withSeq q).pass (Qty.value (.lit b.params.val.tSyncTimeout) (b.withSeq q))) =
      (b.pass b.params.val.tSyncTimeout).withSeq q := rfl
  have hcode : eval (resyncCode b.params.val) (b.withSeq q) =
      (eval (.seq (.when (.stIs .success) (.seq (.act (.setComm .awakeSynced)) (.seq (.act (.setRs .synced)) .ret)))
        (rewakeTail b.params.val)) (t.withSeq q1)).returned := by
    rw [resyncCode, eval_proc]
    congr 1
    simp only [Stmt.block_cons, Stmt.block_one]
    rw [eval_delay_seq _ _ hq, hd, eval_seq_done h1]
    rfl
  rw [hcode]
  by_cases hsucc : r = .success
  · subst hsucc
    have hR : Reference.resync b = (.synced, Reference.setComm .awakeSynced t) := by rw [Reference.resync, hr]
    rw [hR]
    refine ⟨{ q1 with rs := .synced }, ?_, rfl, ?_⟩
    · rw [eval_seq_ret (t := (Reference.setComm .awakeSynced t).withSeq { q1 with rs := .synced })]
      · rfl
      · rw [eval_when_true _ (by rw [stIs_holds, hst1]; rfl), eval_act_seq _ _ ht, eval_act_seq _ _ (by exact ht)]
        rfl
    · rw [← Sequencer.forgetSync_of_forgetBytes hf1]
      rfl
  · have hR : Reference.resync b = Reference.rewake t := by
      rw [Reference.resync, hr]
      cases r <;> first | contradiction | rfl
    rw [hR, eval_when_seq_false _ _ (by rw [stIs_holds, hst1]; simpa using hsucc)]
    obtain ⟨q2, h2, hrs, hf2⟩ := eval_rewakeTail t q1 (hk1.quiet hb)
    rw [hk1.params] at h2
    refine ⟨q2, ?_, hrs, hf2.trans (Sequencer.forgetSync_of_forgetBytes hf1)⟩
    rcases h2 with h2 | h2 <;> rw [h2] <;> rfl

end Sys2Proof.Machine
end

