-- ==== Sys2Proof/Laws/Exchange.lean ====
section
/-! SUPPORT. PollReceive and the loops of SendAndReceive: the sequencer's run of each is the function of
Reference.lean of the same name, where no host access is to come. -/

namespace Sys2Proof.Machine

open Sys2Proof

/-- What PollReceive leaves of the sequencer's registers: all but its own. -/
def Sequencer.forgetPoll (q : Sequencer) : Sequencer := { q.forgetBytes with p := 0, t0 := 0 }

theorem Sequencer.forgetPoll_of_forgetBytes {q r : Sequencer} (h : q.forgetBytes = r.forgetBytes) :
    q.forgetPoll = r.forgetPoll := by
  rw [Sequencer.forgetPoll, h]
  rfl

/-- The loop body of PollReceive. -/
def pollBody (p : Params) : Stmt :=
  .block [
    .act .nextPoll,
    receiveFrameCode p,
    .ite (.stIs .rxTimeout) .skip .ret,
    .when .attemptShort (.delay .pollPad)]

/-- The padding of an attempt of PollReceive to one increment (42_framer.md R155). -/
theorem eval_pad (t0 : Nat) (t : State) (q : Sequencer) (ht : t.host = []) (hq : q.t0 = t0) :
    eval (.when .attemptShort (.delay .pollPad)) (t.withSeq q) =
      .done ((if t.now - t0 < t.params.val.tPoll then t.pass (t.params.val.tPoll - (t.now - t0)) else t).withSeq q) := by
  subst hq
  by_cases h : t.now - q.t0 < t.params.val.tPoll
  · have hc : Cond.attemptShort.holds (t.withSeq q) = true := decide_eq_true h
    rw [if_pos h, eval_when_true _ hc, eval_delay _ (by exact ht)]
    rfl
  · have hc : Cond.attemptShort.holds (t.withSeq q) = false := decide_eq_false h
    rw [if_neg h, eval_when_false _ hc]

/-- The loop of PollReceive (42_framer.md R155). -/
theorem iterate_pollBody (n : Nat) (b : State) (q : Sequencer) (hb : b.host = []) :
    ∃ q' : Sequencer,
      (((Reference.pollReceive n b).1 = .rxTimeout ∧
          iterate (eval (pollBody b.params.val)) (pollBody b.params.val) n (b.withSeq q) =
            .done ((Reference.pollReceive n b).2.withSeq q')) ∨
        ((Reference.pollReceive n b).1 ≠ .rxTimeout ∧
          iterate (eval (pollBody b.params.val)) (pollBody b.params.val) n (b.withSeq q) =
            .ret ((Reference.pollReceive n b).2.withSeq q') ∧
          q'.st = (Reference.pollReceive n b).1)) ∧
      q'.forgetPoll = q.forgetPoll := by
  induction n generalizing b q with
  | zero => exact ⟨q, .inl ⟨rfl, rfl⟩, rfl⟩
  | succ n ih =>
    have hq : (b.withSeq q).host = [] := hb
    obtain ⟨q1, h1, hst1, hf1⟩ := eval_receiveFrame b { q with p := q.p + 1, t0 := b.now } hb
    have hk := Reference.keeps_receiveFrame b
    have hf1' : q1.forgetPoll = q.forgetPoll := (Sequencer.forgetPoll_of_forgetBytes hf1).trans rfl
    have ht0 : q1.t0 = b.now := (congrArg Sequencer.t0 hf1 :)
    rcases hr : Reference.receiveFrame b with ⟨r, t⟩
    rw [hr] at h1 hst1 hk
    dsimp only at h1 hst1 hk
    have ht := hk.quiet hb
    have hbody : eval (pollBody b.params.val) (b.withSeq q) =
        eval (.seq (.ite (.stIs .rxTimeout) .skip .ret) (.when .attemptShort (.delay .pollPad))) (t.withSeq q1) := by
      rw [pollBody]
      simp only [Stmt.block_cons, Stmt.block_one]
      rw [eval_act_seq _ _ hq, eval_seq_done (by exact h1)]
    rw [iterate, hbody]
    by_cases hto : r = .rxTimeout
    · subst hto
      have hR : Reference.pollReceive (n + 1) b =
          Reference.pollReceive n (if t.now - b.now < b.params.val.tPoll then t.pass (b.params.val.tPoll - (t.now - b.now)) else t) := by
        rw [Reference.pollReceive, hr]
      rw [hR, eval_seq_done (by rw [eval_ite_true _ _ (by rw [stIs_holds, hst1]; rfl)]; rfl), eval_pad b.now t q1 ht ht0,
        hk.params, Res.looped]
      have hku : Reference.Keeps b (if t.now - b.now < b.params.val.tPoll then t.pass (b.params.val.tPoll - (t.now - b.now)) else t) := by
        split
        · exact hk.trans (Reference.keeps_pass _ _)
        · exact hk
      generalize (if t.now - b.now < b.params.val.tPoll then t.pass (b.params.val.tPoll - (t.now - b.now)) else t) = u at hku
      obtain ⟨q2, h2, hf2⟩ := ih u q1 (hku.quiet hb)
      rw [hku.params] at h2
      exact ⟨q2, h2, hf2.trans hf1'⟩
    · have hR : Reference.pollReceive (n + 1) b = (r, t) := by
        rw [Reference.pollReceive, hr]
        cases r <;> first | contradiction | rfl
      rw [hR, eval_seq_ret (t := t.withSeq q1)
        (by rw [eval_ite_false _ _ (by rw [stIs_holds, hst1]; simpa using hto)]; rfl)]
      exact ⟨q1, .inr ⟨hto, rfl, hst1⟩, hf1'⟩

/-- PollReceive (42_framer.md R155): its result is in `st`. -/
theorem eval_pollReceive (b : State) (q : Sequencer) (hb : b.host = []) :
    ∃ q', eval (pollReceiveCode b.params.val) (b.withSeq q) =
        .done ((Reference.pollReceive b.nPoll b).2.withSeq q') ∧
      q'.st = (Reference.pollReceive b.nPoll b).1 ∧ q'.forgetPoll = q.forgetPoll := by
  have hq : (b.withSeq q).host = [] := hb
  obtain ⟨q1, h1, hf1⟩ := iterate_pollBody b.nPoll b { q with p := 0 } hb
  have hk := Reference.keeps_pollReceive b.nPoll b
  have hcode : eval (pollReceiveCode b.params.val) (b.withSeq q) =
      ((iterate (eval (pollBody b.params.val)) (pollBody b.params.val) b.nPoll (b.withSeq { q with p := 0 })).andThen
        (.act (.setSt .rxTimeout)) (eval (.act (.setSt .rxTimeout)))).returned := by
    rw [pollReceiveCode, eval_proc]
    congr 1
    simp only [Stmt.block_cons, Stmt.block_one]
    rw [eval_act_seq _ _ hq]
    rw [eval]
    congr 1
  rw [hcode]
  rcases h1 with ⟨a1, a2⟩ | ⟨a1, a2, a3⟩
  · refine ⟨{ q1 with st := .rxTimeout }, ?_, by rw [a1], hf1⟩
    rw [a2, Res.andThen, eval_act _ (by exact hk.quiet hb)]
    rfl
  · refine ⟨q1, ?_, a3, hf1⟩
    rw [a2]
    rfl

/-- What an inner iteration of SendAndReceive leaves of the sequencer's registers. -/
def Sequencer.forgetRetry (q : Sequencer) : Sequencer :=
  { q.forgetPoll with rs := .synced, matched := .mismatch, r := 0, lastEscalation := .none }

theorem Sequencer.forgetRetry_of_forgetPoll {q r : Sequencer} (h : q.forgetPoll = r.forgetPoll) :
    q.forgetRetry = r.forgetRetry := by
  rw [Sequencer.forgetRetry, h]
  rfl

theorem Sequencer.forgetRetry_of_forgetSync {q r : Sequencer} (h : q.forgetSync = r.forgetSync) :
    q.forgetRetry = r.forgetRetry := by
  have : ∀ q : Sequencer, q.forgetRetry =
      { q.forgetSync with p := 0, t0 := 0, matched := .mismatch, r := 0, lastEscalation := .none } := fun _ => rfl
  rw [this q, this r, h]

/-- The registers of the sequencer that decide how the outer loop goes on. -/
theorem Sequencer.lastEscalation_of_forgetSync {q r : Sequencer} (h : q.forgetSync = r.forgetSync) :
    q.lastEscalation = r.lastEscalation := (congrArg Sequencer.lastEscalation h :)

theorem Sequencer.lastEscalation_of_forgetPoll {q r : Sequencer} (h : q.forgetPoll = r.forgetPoll) :
    q.lastEscalation = r.lastEscalation := (congrArg Sequencer.lastEscalation h :)

/-- `if Resync(R) == UNREACHABLE: finish(FATAL_COMM_FAILURE)` (42_framer.md R157). -/
theorem eval_resyncOrDie (b : State) (q : Sequencer) (hb : b.host = []) :
    ∃ q' : Sequencer,
      (((Reference.resync b).1 = .unreachable ∧
          eval (resyncOrDieCode b.params.val) (b.withSeq q) = .fin ((Reference.resync b).2.finish .fatalCommFailure)) ∨
        ((Reference.resync b).1 ≠ .unreachable ∧
          eval (resyncOrDieCode b.params.val) (b.withSeq q) = .done ((Reference.resync b).2.withSeq q') ∧
          q'.rs = (Reference.resync b).1)) ∧
      q'.forgetSync = q.forgetSync := by
  obtain ⟨q1, h1, hrs, hf⟩ := eval_resync b q hb
  have ht := (Reference.keeps_resync b).quiet hb
  rcases hr : Reference.resync b with ⟨r, t⟩
  rw [hr] at h1 hrs ht
  dsimp only at h1 hrs ht ⊢
  refine ⟨q1, ?_, hf⟩
  rw [resyncOrDieCode, Stmt.block_cons, Stmt.block_one, eval_seq_done h1]
  by_cases hu : r = .unreachable
  · refine .inl ⟨hu, ?_⟩
    rw [eval_when_true _ (by rw [rsIs_holds, hrs, hu]; rfl), eval_finish _ (by exact ht)]
    rfl
  · refine .inr ⟨hu, ?_, hrs⟩
    rw [eval_when_false _ (by rw [rsIs_holds, hrs]; simpa using hu)]

/-- Steps 5 and 6 of SendAndReceive (42_framer.md R157). -/
theorem eval_goodFrame (b : State) (q : Sequencer) (hb : b.host = []) :
    (∃ c, Reference.takeFrame b = .finished c ∧
      eval goodFrameCode (b.withSeq q) = .fin ((Reference.setComm .awakeSynced b).finish c)) ∨
    (Reference.takeFrame b = .resend .deviceCommStatus ∧
      eval goodFrameCode (b.withSeq q) =
        .brk ((Reference.setComm .awakeSynced b).withSeq { q with lastEscalation := .deviceCommStatus })) := by
  have hq : (b.withSeq q).host = [] := hb
  have hs : Action.run (.setComm .awakeSynced) (b.withSeq q) = (Reference.setComm .awakeSynced b).withSeq q := rfl
  have hq' : ((Reference.setComm .awakeSynced b).withSeq q).host = [] := hb
  unfold goodFrameCode Reference.takeFrame
  simp only [Stmt.block_cons, Stmt.block_one]
  rw [eval_act_seq _ _ hq, hs]
  by_cases h4 : 4 < b.rx.frameLen
  · left
    refine ⟨.success, by rw [if_pos h4], ?_⟩
    have hc : Cond.dataResponse.holds ((Reference.setComm .awakeSynced b).withSeq q) = true := decide_eq_true h4
    rw [eval_when_finish _ _ hq' hc]
    rfl
  · have hd : Cond.dataResponse.holds ((Reference.setComm .awakeSynced b).withSeq q) = false := decide_eq_false h4
    rw [if_neg h4, eval_when_seq_false _ _ hd]
    by_cases hc : b.rx.read 1 = b.params.val.stComm
    · right
      refine ⟨by rw [if_pos hc], ?_⟩
      rw [eval_seq_brk]
      rw [eval_when_true _ (by exact beq_iff_eq.mpr hc), eval_act_seq _ _ hq']
      rfl
    · left
      refine ⟨_, by rw [if_neg hc], ?_⟩
      rw [eval_when_seq_false _ _ (by exact beq_eq_false_iff_ne.mpr hc), eval_finish _ hq']
      rfl

/-- One inner iteration of SendAndReceive (42_framer.md R157): it ends the operation, leaves the inner
loop, or goes on with the next iteration. -/
theorem eval_receiveRetry (b : State) (q : Sequencer) (hb : b.host = []) (hq : q.lastEscalation = .none) :
    ∃ q' : Sequencer,
      (∃ c, (Reference.receiveOnce b).1 = some (.finished c) ∧
        eval (receiveRetryCode b.params.val) (b.withSeq q) = .fin ((Reference.receiveOnce b).2.finish c)) ∨
      (∃ e, (Reference.receiveOnce b).1 = some (.resend e) ∧
        eval (receiveRetryCode b.params.val) (b.withSeq q) = .brk ((Reference.receiveOnce b).2.withSeq q') ∧
        q'.lastEscalation = e) ∨
      ((Reference.receiveOnce b).1 = none ∧
        eval (receiveRetryCode b.params.val) (b.withSeq q) = .done ((Reference.receiveOnce b).2.withSeq q') ∧
        q'.lastEscalation = .none) := by
  have hbq : (b.withSeq q).host = [] := hb
  obtain ⟨q1, h1, hst1, hf1⟩ := eval_pollReceive b { q with r := q.r + 1 } hb
  have hk := Reference.keeps_pollReceive b.nPoll b
  have he1 : q1.lastEscalation = .none := (Sequencer.lastEscalation_of_forgetPoll hf1).trans hq
  rcases hr : Reference.pollReceive b.nPoll b with ⟨r, t⟩
  rw [hr] at h1 hst1 hk
  dsimp only at h1 hst1 hk
  have ht := hk.quiet hb
  have hcode : eval (receiveRetryCode b.params.val) (b.withSeq q) =
      eval (.seq (.when (.stIs .rxTimeout) (.seq (resyncOrDieCode b.params.val) .brk))
        (.seq (.when (.stIs .success) (.seq (.act .checkFrame) (.when .frameMatches goodFrameCode)))
          (.seq (resyncOrDieCode b.params.val) (.when (.rsIs .rewoken) .brk)))) (t.withSeq q1) := by
    rw [receiveRetryCode]
    simp only [Stmt.block_cons, Stmt.block_one]
    rw [eval_act_seq _ _ hbq, eval_seq_done (by exact h1)]
  rw [hcode]
  -- the resync of step 4
  have step4 : ∀ (u : State) (p : Params) (q2 : Sequencer), u.host = [] → u.params.val = p → q2.lastEscalation = .none →
      ∃ q' : Sequencer,
      (∃ c, (Reference.recover u).1 = some (.finished c) ∧
        eval (.seq (resyncOrDieCode p) (.when (.rsIs .rewoken) .brk)) (u.withSeq q2) = .fin ((Reference.recover u).2.finish c)) ∨
      (∃ e, (Reference.recover u).1 = some (.resend e) ∧
        eval (.seq (resyncOrDieCode p) (.when (.rsIs .rewoken) .brk)) (u.withSeq q2) = .brk ((Reference.recover u).2.withSeq q') ∧
        q'.lastEscalation = e) ∨
      ((Reference.recover u).1 = none ∧
        eval (.seq (resyncOrDieCode p) (.when (.rsIs .rewoken) .brk)) (u.withSeq q2) = .done ((Reference.recover u).2.withSeq q') ∧
        q'.lastEscalation = .none) := by
    intro u p q2 hu hp he
    subst hp
    obtain ⟨q3, h3, hf3⟩ := eval_resyncOrDie u q2 hu
    have he3 := (Sequencer.lastEscalation_of_forgetSync hf3).trans he
    refine ⟨q3, ?_⟩
    unfold Reference.recover
    rcases hrs : Reference.resync u with ⟨rs, v⟩
    rw [hrs] at h3
    dsimp only at h3
    rcases h3 with ⟨a1, a2⟩ | ⟨a1, a2, a3⟩
    · subst a1
      exact .inl ⟨_, rfl, eval_seq_fin a2⟩
    · right
      rw [eval_seq_done a2]
      cases rs with
      | unreachable => exact absurd rfl a1
      | rewoken =>
        refine .inl ⟨.none, rfl, ?_, he3⟩
        rw [eval_when_true _ (by rw [rsIs_holds, a3]; rfl)]
        rfl
      | synced =>
        refine .inr ⟨rfl, ?_, he3⟩
        rw [eval_when_false _ (by rw [rsIs_holds, a3]; rfl)]
  by_cases hto : r = .rxTimeout
  · subst hto
    have hR : Reference.receiveOnce b = (some (Reference.recoverAndResend t).1, (Reference.recoverAndResend t).2) := by
      rw [Reference.receiveOnce, hr]
    rw [hR]
    obtain ⟨q3, h3, hf3⟩ := eval_resyncOrDie t q1 ht
    have he3 := (Sequencer.lastEscalation_of_forgetSync hf3).trans he1
    refine ⟨q3, ?_⟩
    unfold Reference.recoverAndResend
    rcases hrs : Reference.resync t with ⟨rs, v⟩
    rw [hrs, hk.params] at h3
    dsimp only at h3
    rcases h3 with ⟨a1, a2⟩ | ⟨a1, a2, a3⟩
    · subst a1
      refine .inl ⟨_, rfl, ?_⟩
      rw [eval_seq_fin (by rw [eval_when_true _ (by rw [stIs_holds, hst1]; rfl), eval_seq_fin a2])]
    · refine .inr (.inl ⟨.none, ?_, ?_, he3⟩)
      · cases rs <;> first | exact absurd rfl a1 | rfl
      · have hv : (match ((rs, v) : ResyncOutcome × State) with
            | (.unreachable, s1) => (Reference.LoopEnd.finished .fatalCommFailure, s1)
            | (_, s1) => (.resend .none, s1)).2 = v := by cases rs <;> rfl
        rw [eval_seq_brk (t := v.withSeq q3)]
        · cases rs <;> rfl
        · rw [eval_when_true _ (by rw [stIs_holds, hst1]; rfl), eval_seq_done a2]
          rfl
  · rw [eval_when_seq_false _ _ (by rw [stIs_holds, hst1]; simpa using hto)]
    by_cases hsu : r = .success
    · subst hsu
      have hc1 : (Cond.stIs .success).holds (t.withSeq q1) = true := by rw [stIs_holds, hst1]; rfl
      have hchk : Action.run .checkFrame (t.withSeq q1) =
          (Action.run .checkFrame t).withSeq { q1 with matched := t.rx.checkFrame t.bound } := rfl
      have hkc := Reference.keeps_checkFrame t
      generalize hcf : Action.run .checkFrame t = u at hchk hkc
      by_cases hm : t.rx.checkFrame t.bound = .matched
      · have hR : Reference.receiveOnce b = (some (Reference.takeFrame u), Reference.setComm .awakeSynced u) := by
          rw [Reference.receiveOnce, hr]
          dsimp only
          rw [if_pos hm, hcf]
        have hc2 : Cond.frameMatches.holds (u.withSeq { q1 with matched := t.rx.checkFrame t.bound }) = true := by
          rw [hm]
          rfl
        have hin : ∀ k : Stmt, eval (.seq (.when (.stIs .success) (.seq (.act .checkFrame) (.when .frameMatches goodFrameCode))) k)
            (t.withSeq q1) =
            (eval goodFrameCode (u.withSeq { q1 with matched := t.rx.checkFrame t.bound })).andThen k (eval k) := by
          intro k
          rw [eval]
          congr 1
          rw [eval_when_true _ hc1, eval_act_seq _ _ (by exact ht), hchk, eval_when_true _ hc2]
        rw [hR, hin]
        rcases eval_goodFrame u { q1 with matched := t.rx.checkFrame t.bound } (hkc.quiet ht) with ⟨c, a1, a2⟩ | ⟨a1, a2⟩
        · refine ⟨q1, .inl ⟨c, by rw [a1], ?_⟩⟩
          rw [a2]
          rfl
        · refine ⟨{ q1 with matched := t.rx.checkFrame t.bound, lastEscalation := .deviceCommStatus },
            .inr (.inl ⟨.deviceCommStatus, by rw [a1], ?_, rfl⟩)⟩
          rw [a2]
          rfl
      · have hR : Reference.receiveOnce b = Reference.recover u := by
          rw [Reference.receiveOnce, hr]
          dsimp only
          rw [if_neg hm, hcf]
        have hc2 : Cond.frameMatches.holds (u.withSeq { q1 with matched := t.rx.checkFrame t.bound }) = false :=
          beq_eq_false_iff_ne.mpr hm
        rw [hR, eval_seq_done (by rw [eval_when_true _ hc1, eval_act_seq _ _ (by exact ht), hchk, eval_when_false _ hc2])]
        exact step4 u b.params.val _ (hkc.quiet ht) (by rw [hkc.params, hk.params]) he1
    · have hR : Reference.receiveOnce b = Reference.recover t := by
        rw [Reference.receiveOnce, hr]
        cases r <;> first | contradiction | rfl
      rw [hR, eval_when_seq_false _ _ (by rw [stIs_holds, hst1]; simpa using hsu)]
      exact step4 t b.params.val q1 ht (by rw [hk.params]) he1

/-- The inner loop of SendAndReceive (42_framer.md R157). -/
theorem iterate_receiveRetry (n : Nat) (b : State) (q : Sequencer) (hb : b.host = []) (hq : q.lastEscalation = .none) :
    ∃ q' : Sequencer,
      (∃ c, (Reference.receiveRetry n b).1 = .finished c ∧
        iterate (eval (receiveRetryCode b.params.val)) (receiveRetryCode b.params.val) n (b.withSeq q) =
          .fin ((Reference.receiveRetry n b).2.finish c)) ∨
      (∃ e, (Reference.receiveRetry n b).1 = .resend e ∧
        iterate (eval (receiveRetryCode b.params.val)) (receiveRetryCode b.params.val) n (b.withSeq q) =
          .done ((Reference.receiveRetry n b).2.withSeq q') ∧
        q'.lastEscalation = e) := by
  induction n generalizing b q with
  | zero => exact ⟨q, .inr ⟨.none, rfl, rfl, hq⟩⟩
  | succ n ih =>
    obtain ⟨q1, h1⟩ := eval_receiveRetry b q hb hq
    have hk := Reference.keeps_receiveOnce b
    rw [Reference.receiveRetry, iterate]
    rcases hr : Reference.receiveOnce b with ⟨r, t⟩
    rw [hr] at h1 hk
    dsimp only at h1 hk
    rcases h1 with ⟨c, a1, a2⟩ | ⟨e, a1, a2, a3⟩ | ⟨a1, a2, a3⟩
    · subst a1
      refine ⟨q1, .inl ⟨c, rfl, ?_⟩⟩
      rw [a2]
      rfl
    · subst a1
      refine ⟨q1, .inr ⟨e, rfl, ?_, a3⟩⟩
      rw [a2]
      rfl
    · subst a1
      obtain ⟨q2, h2⟩ := ih t q1 (hk.quiet hb) a3
      rw [hk.params] at h2
      refine ⟨q2, ?_⟩
      rw [a2]
      exact h2

/-- One outer iteration of SendAndReceive (42_framer.md R157). -/
theorem eval_sendRetry (b : State) (q : Sequencer) (hb : b.host = []) :
    ∃ q' : Sequencer,
      (∃ c, (Reference.receiveRetry b.params.val.nRecvAttempts (Reference.transmit b)).1 = .finished c ∧
        eval (sendRetryCode b.params.val) (b.withSeq q) =
          .fin ((Reference.receiveRetry b.params.val.nRecvAttempts (Reference.transmit b)).2.finish c)) ∨
      (∃ e, (Reference.receiveRetry b.params.val.nRecvAttempts (Reference.transmit b)).1 = .resend e ∧
        eval (sendRetryCode b.params.val) (b.withSeq q) =
          .done ((Reference.receiveRetry b.params.val.nRecvAttempts (Reference.transmit b)).2.withSeq q') ∧
        q'.lastEscalation = e) := by
  have hbq : (b.withSeq q).host = [] := hb
  have hkt := Reference.keeps_transmit b
  have hks := Reference.keeps_sendBytes (b.params.val.cmdPrefix ++ b.tx.prefixBytes b.tx.frameLen) b
  obtain ⟨q1, h1⟩ := iterate_receiveRetry b.params.val.nRecvAttempts (Reference.transmit b)
    { q with s := q.s + 1, lastEscalation := .none, st := .success, r := 0 } (hkt.quiet hb) rfl
  rw [hkt.params] at h1
  refine ⟨q1, ?_⟩
  have htx : Reference.transmit b =
      (Reference.setComm .deviceBusy (Reference.sendBytes (b.params.val.cmdPrefix ++ b.tx.prefixBytes b.tx.frameLen) b)).pass
        b.execDelayUs := rfl
  have hsend : ∀ q : Sequencer, Reference.sendBytes (Source.bytes .commandFrame (b.withSeq q)) (b.withSeq q) =
      (Reference.sendBytes (b.params.val.cmdPrefix ++ b.tx.prefixBytes b.tx.frameLen) b).withSeq q := fun q =>
    sendBytes_withSeq _ _ _
  generalize Reference.sendBytes (b.params.val.cmdPrefix ++ b.tx.prefixBytes b.tx.frameLen) b = u at htx hsend hks
  have hu : ∀ q : Sequencer, (u.withSeq q).host = [] := fun _ => hks.quiet hb
  have hdelay : ∀ q : Sequencer, ((Reference.setComm .deviceBusy u).withSeq q).pass
      (Qty.value .execDelay ((Reference.setComm .deviceBusy u).withSeq q)) = (Reference.transmit b).withSeq q := by
    intro q
    have he : Qty.value .execDelay ((Reference.setComm .deviceBusy u).withSeq q) = b.execDelayUs := by
      show 1000 * u.argExecDelay.toNat = 1000 * b.argExecDelay.toNat
      rw [hks.argExecDelay]
    rw [he, htx]
    rfl
  have hcode : eval (sendRetryCode b.params.val) (b.withSeq q) =
      iterate (eval (receiveRetryCode b.params.val)) (receiveRetryCode b.params.val) b.params.val.nRecvAttempts
        ((Reference.transmit b).withSeq { q with s := q.s + 1, lastEscalation := .none, st := .success, r := 0 }) := by
    have hs1 : Action.run .nextSend (b.withSeq q) = b.withSeq { q with s := q.s + 1, lastEscalation := .none } := rfl
    have hs2 : Action.run (.setSt .success) (u.withSeq { q with s := q.s + 1, lastEscalation := .none }) =
        u.withSeq { q with s := q.s + 1, lastEscalation := .none, st := .success } := rfl
    have hs3 : ∀ q : Sequencer, Action.run (.setComm .deviceBusy) (u.withSeq q) =
        (Reference.setComm .deviceBusy u).withSeq q := fun _ => rfl
    have hs4 : Action.run .firstRecv ((Reference.transmit b).withSeq { q with s := q.s + 1, lastEscalation := .none, st := .success }) =
        (Reference.transmit b).withSeq { q with s := q.s + 1, lastEscalation := .none, st := .success, r := 0 } := rfl
    have hc : ∀ q : Sequencer, q.st = .success → (Cond.stIs .success).holds (u.withSeq q) = true := by
      intro q hq
      rw [stIs_holds, hq]
      rfl
    rw [sendRetryCode, transmitFrameCode]
    simp only [Stmt.block_cons, Stmt.block_one]
    rw [eval_act_seq _ _ hbq, hs1, eval_seq_done (t := u.withSeq { q with s := q.s + 1, lastEscalation := .none, st := .success })
        (by rw [eval_send_seq _ _ (by exact hb), hsend, eval_act _ (hu _), hs2]),
      eval_ite_true _ _ (hc _ rfl), eval_act_seq _ _ (hu _), hs3, eval_delay_seq _ _ (by exact hu q), hdelay,
      eval_act_seq _ _ (by exact hkt.quiet hb), hs4, eval_loop]
    rfl
  rw [hcode]
  exact h1

/-- The outer loop of SendAndReceive (42_framer.md R157, R158): it ends the operation, or leaves the
escalation that decides the exhaustion result. -/
theorem iterate_sendRetry (n : Nat) (e : Escalation) (b : State) (q : Sequencer) (hb : b.host = [])
    (hq : q.lastEscalation = e) :
    ∃ q' : Sequencer,
      iterate (eval (sendRetryCode b.params.val)) (sendRetryCode b.params.val) n (b.withSeq q) =
        .fin ((Reference.sendRetry n e b).2.finish (Reference.sendRetry n e b).1) ∨
      (iterate (eval (sendRetryCode b.params.val)) (sendRetryCode b.params.val) n (b.withSeq q) =
          .done ((Reference.sendRetry n e b).2.withSeq q') ∧
        (Reference.sendRetry n e b).1 =
          if q'.lastEscalation = .deviceCommStatus then .deviceCommStatus else .fatalCommFailure) := by
  induction n generalizing e b q with
  | zero =>
    refine ⟨q, .inr ?_⟩
    subst hq
    cases h : q.lastEscalation <;> exact ⟨rfl, rfl⟩
  | succ n ih =>
    obtain ⟨q1, h1⟩ := eval_sendRetry b q hb
    have hk := (Reference.keeps_transmit b).trans (Reference.keeps_receiveRetry b.params.val.nRecvAttempts _)
    rw [Reference.sendRetry, iterate]
    rcases hr : Reference.receiveRetry b.params.val.nRecvAttempts (Reference.transmit b) with ⟨r, t⟩
    rw [hr] at h1 hk
    dsimp only at h1 hk
    rcases h1 with ⟨c, a1, a2⟩ | ⟨e', a1, a2, a3⟩
    · subst a1
      refine ⟨q1, .inl ?_⟩
      rw [a2]
      rfl
    · subst a1
      obtain ⟨q2, h2⟩ := ih e' t q1 (hk.quiet hb) a3
      rw [hk.params] at h2
      refine ⟨q2, ?_⟩
      rw [a2]
      exact h2

end Sys2Proof.Machine
end

