-- ==== Sys2Proof/Laws/HostBus.lean ====
section
/-! SUPPORT. What the host's reads, writes and polls can do, said once for each. -/

namespace Sys2Proof.Machine

/-- A read changes only the host's record of reads and the counter of free bytes. -/
theorem State.hostRead_cases (a : Addr) (s : State) :
    (s.unspecified a = true ∧
      s.hostRead a = { s with reads := Config.freeByte s.freeCount :: s.reads, freeCount := s.freeCount + 1 }) ∨
    (s.unspecified a = false ∧ s.hostRead a = { s with reads := s.stored a :: s.reads }) := by
  unfold State.hostRead
  split
  · rename_i h
    exact .inl ⟨h, rfl⟩
  · rename_i h
    exact .inr ⟨Bool.eq_false_of_not_eq_true h, rfl⟩

/-- A read of STATUS is live, whatever the engine does. -/
theorem State.hostRead_status (s : State) : s.hostRead 0x001 = { s with reads := s.status.toByte :: s.reads } := by
  obtain ⟨h, -⟩ | ⟨-, h⟩ := s.hostRead_cases 0x001
  · simp [State.unspecified] at h
  · exact h

/-- A poll records STATUS, and puts the next poll before the host's other accesses while DONE = 0. -/
theorem State.poll_eq (p : Pace) (s : State) :
    s.poll p = { s with
      reads := s.status.toByte :: s.reads
      host := if s.status.done then s.host else nextPoll p :: s.host } := by
  unfold State.poll
  rw [hostRead_status]
  split <;> simp_all

/-- The next poll is not due at once: time passes, or the engine takes a step, before it. -/
theorem nextPoll_later (p : Pace) : 0 < (nextPoll p).wait ∨ 0 < (nextPoll p).steps := by
  simp only [nextPoll]
  split <;> omega

/-- A host write short of CMD changes at most the argument registers and TX. -/
theorem State.hostWrite_eq (a : Addr) (v : Byte) (s : State) :
    ∃ n l r d t x, s.hostWrite a v =
      { s with argLen := n, argLevel := l, argRspSize := r, argExecDelay := d, argExecTimeout := t, tx := x } := by
  unfold State.hostWrite State.writeTx
  repeat' split
  all_goals exact ⟨_, _, _, _, _, _, rfl⟩

/-- While an operation runs, and while reset is asserted, a host write short of CMD is ignored. -/
theorem State.hostWrite_ignored (a : Addr) (v : Byte) {s : State} (h : s.status.active = true ∨ s.resetIn = true) :
    s.hostWrite a v = s :=
  if_pos (by simpa using h)

end Sys2Proof.Machine
end

