-- ==== Sys2Proof/Laws/Invariant.lean ====
section
/-! SUPPORT. The engine keeps the invariant of Safety.lean. -/

namespace Sys2Proof.Machine

/-- A state in which an operation runs and the invariant holds. -/
structure Running (s : State) : Prop where
  active : s.status.active = true
  live : s.resetIn = false
  inv : Inv s

/-- While an operation runs, the invariant is about TX, RX and the waveform. -/
theorem running_of {s : State} (ha : s.status.active = true) (hd : s.status.done = false) (hr : s.resetIn = false)
    (h1 : s.tx.wf = true) (h2 : s.rx.wf = true) (h3 : s.tx.within s.params.val.txCapacity = true)
    (h4 : s.rx.within s.params.val.rxCapacity = true) (h5 : canonicalTrace s.trace = true)
    (h6 : traceLen s.trace = s.now) : Running s where
  active := ha
  live := hr
  inv := {
    txWf := h1
    rxWf := h2
    txWithin := h3
    rxWithin := h4
    notBoth := by simp [hd]
    fresh := by simp [ha]
    idleSeq := by simp [ha]
    traceCanonical := h5
    traceCovers := h6
    inReset := by simp [hr] }

theorem Running.done {s : State} (h : Running s) : s.status.done = false := by
  have := h.inv.notBoth
  rw [h.active] at this
  simpa using this

theorem Running.pass {s : State} (h : Running s) (d : Nat) : Running (s.pass d) :=
  running_of h.active h.done h.live h.inv.txWf h.inv.rxWf h.inv.txWithin h.inv.rxWithin
    (canonicalTrace_extendTrace _ _ _ h.inv.traceCanonical)
    (by rw [State.pass_trace, State.pass_now, traceLen_extendTrace, h.inv.traceCovers])

theorem Running.setDrive {s : State} (h : Running s) (l : Level) : Running (s.setDrive l) :=
  running_of h.active h.done h.live h.inv.txWf h.inv.rxWf h.inv.txWithin h.inv.rxWithin h.inv.traceCanonical
    h.inv.traceCovers

theorem Running.tick {s : State} (h : Running s) : Running s.tick := by
  have hh : ∀ es, Running { s with host := es } := fun es =>
    running_of h.active h.done h.live h.inv.txWf h.inv.rxWf h.inv.txWithin h.inv.rxWithin h.inv.traceCanonical
      h.inv.traceCovers
  unfold State.tick
  split
  · exact h
  · split
    · exact hh _
    · exact h

theorem Running.updSeq {s : State} (h : Running s) (f : Sequencer → Sequencer) : Running (s.updSeq f) :=
  running_of h.active h.done h.live h.inv.txWf h.inv.rxWf h.inv.txWithin h.inv.rxWithin h.inv.traceCanonical
    h.inv.traceCovers

theorem Running.storeCrc {s : State} (h : Running s) (c : Word) : Running (s.storeCrc c) :=
  running_of h.active h.done h.live h.inv.txWf h.inv.rxWf h.inv.txWithin h.inv.rxWithin h.inv.traceCanonical
    h.inv.traceCovers

theorem Running.writeRx {s : State} (h : Running s) (i : Nat) (v : Byte) : Running (s.writeRx i v) := by
  have hk := State.writeRx_keeps i v s h.inv.rxWf h.inv.rxWithin
  unfold State.writeRx at hk ⊢
  split
  · rename_i hi
    rw [if_pos hi] at hk
    exact running_of h.active h.done h.live h.inv.txWf hk.1 h.inv.txWithin hk.2 h.inv.traceCanonical h.inv.traceCovers
  · exact h

theorem Running.writeTx {s : State} (h : Running s) (i : Nat) (v : Byte) : Running (s.writeTx i v) := by
  have hk := State.writeTx_keeps i v s h.inv.txWf h.inv.txWithin
  unfold State.writeTx at hk ⊢
  split
  · rename_i hi
    rw [if_pos hi] at hk
    exact running_of h.active h.done h.live hk.1 h.inv.rxWf hk.2 h.inv.rxWithin h.inv.traceCanonical h.inv.traceCovers
  · exact h

theorem Running.writeTxCrc {s : State} (h : Running s) (i : Nat) (c : Word) : Running (s.writeTxCrc i c) :=
  (h.writeTx _ _).writeTx _ _

theorem Running.zeroRx {s : State} (h : Running s) (n : Nat) : Running (s.zeroRx n) := by
  have hk := State.zeroRx_keeps n s h.inv.rxWf h.inv.rxWithin
  exact running_of h.active h.done h.live h.inv.txWf hk.1 h.inv.txWithin hk.2 h.inv.traceCanonical h.inv.traceCovers

/-- A step without a duration keeps the invariant. -/
theorem Running.run {s : State} (h : Running s) (a : Action) : Running (a.run s) := by
  have hset : ∀ (st : Status) (rxc : Byte) (q : Sequencer) (crc : Word) (c : CommState),
      st.active = true → st.done = false →
      Running { s with status := st, rxCount := rxc, seq := q, crc := crc, commState := c } := fun st _ _ _ _ h1 h2 =>
    running_of h1 h2 h.live h.inv.txWf h.inv.rxWf h.inv.txWithin h.inv.rxWithin h.inv.traceCanonical h.inv.traceCovers
  cases a
  case release => exact h.setDrive _
  case driveArgLevel => exact h.setDrive _
  case orBit => exact h.writeRx _ _
  case zeroRx n => exact h.zeroRx _
  case crcCompute => exact h.storeCrc _
  case crcAppend => exact (h.writeTxCrc _ _).storeCrc _
  case appendFrameCrc => exact (h.writeTxCrc _ _).storeCrc _
  case crcCheckRx =>
    rw [Action.run]
    exact (h.storeCrc _).updSeq _
  case crcCheckTx =>
    rw [Action.run]
    exact (h.storeCrc _).updSeq _
  case setSessionLost => exact hset { s.status with sessionLost := true } s.rxCount s.seq s.crc s.commState h.active h.done
  case setComm c => exact hset s.status s.rxCount s.seq s.crc c h.active h.done
  case receiveFailed => exact hset s.status _ _ s.crc s.commState h.active h.done
  case receiveDone => exact hset s.status _ _ s.crc s.commState h.active h.done
  case checkFrame => exact hset s.status s.rxCount _ _ s.commState h.active h.done
  all_goals
    rw [Action.run]
    exact h.updSeq _

/-- `finish` keeps the invariant. -/
theorem Running.finish {s : State} (h : Running s) (c : ResultCode) : Inv (s.finish c) where
  txWf := h.inv.txWf
  rxWf := h.inv.rxWf
  txWithin := h.inv.txWithin
  rxWithin := h.inv.rxWithin
  notBoth := by simp [State.finish]
  fresh := by simp [State.finish]
  idleSeq := fun _ => rfl
  traceCanonical := h.inv.traceCanonical
  traceCovers := h.inv.traceCovers
  inReset := by
    intro hr
    rw [State.finish_resetIn, h.live] at hr
    cases hr

/-- The invariant after a stretch of pseudocode. -/
def Res.Kept : Res → Prop
  | .done s => Running s
  | .brk s => Running s
  | .ret s => Running s
  | .susp _ s => Running s
  | .fin s => Inv s

theorem waitUs_kept (d : Nat) (s : State) (h : Running s) : (waitUs d s).Kept := by
  unfold waitUs
  split
  · exact h
  · split
    · exact h.pass d
    · split
      · split
        · exact h.pass _
        · exact (h.pass _).tick.pass _
      · exact h.tick.pass d

theorem Res.andThen_kept (r : Res) (b : Stmt) (f : State → Res) (hr : r.Kept) (h : ∀ s, Running s → (f s).Kept) :
    (r.andThen b f).Kept := by
  cases r with
  | done s => exact h s hr
  | susp k s => exact hr
  | brk s => exact hr
  | ret s => exact hr
  | fin s => exact hr

theorem Res.looped_kept (r : Res) (n : Nat) (b : Stmt) (f : State → Res) (hr : r.Kept) (h : ∀ s, Running s → (f s).Kept) :
    (r.looped n b f).Kept := by
  cases r with
  | done s => exact h s hr
  | susp k s => exact hr
  | brk s => exact hr
  | ret s => exact hr
  | fin s => exact hr

theorem driveAll_kept (gs : List Segment) (s : State) (h : Running s) : (driveAll gs s).Kept := by
  induction gs generalizing s with
  | nil => exact h
  | cons g gs ih =>
    rw [driveAll]
    split
    · exact h
    · exact Res.andThen_kept _ _ _ (waitUs_kept _ _ (h.setDrive _)) ih

theorem iterate_kept (f : State → Res) (b : Stmt) (hf : ∀ s, Running s → (f s).Kept) (n : Nat) (s : State) (h : Running s) :
    (iterate f b n s).Kept := by
  induction n generalizing s with
  | zero => exact h
  | succ n ih => exact Res.looped_kept _ _ _ _ (hf s h) ih

/-- The engine keeps the invariant. -/
theorem eval_kept (c : Stmt) (s : State) (h : Running s) : (eval c s).Kept := by
  induction c generalizing s with
  | skip => exact h
  | act a =>
    rw [eval, atomic]
    split
    · exact h
    · exact h.tick.run a
  | delay d => exact waitUs_kept _ _ h
  | drives gs => exact driveAll_kept _ _ h
  | send src => exact driveAll_kept _ _ h
  | seq a b iha ihb => exact Res.andThen_kept _ _ _ (iha s h) ihb
  | ite c a b iha ihb =>
    rw [eval]
    split
    · exact iha s h
    · exact ihb s h
  | loop n b ih => exact iterate_kept _ _ ih _ _ h
  | iter c n b ihc ihb => exact Res.looped_kept _ _ _ _ (ihc s h) (fun t ht => iterate_kept _ _ ihb _ _ ht)
  | proc b ih =>
    have hb := ih s h
    rw [eval]
    revert hb
    cases eval b s <;> exact id
  | brk => exact h
  | ret => exact h
  | finish f =>
    rw [eval]
    split
    · exact h
    · exact h.tick.finish _

end Sys2Proof.Machine
end

