-- ==== Sys2Proof/Laws/Suspend.lean ====
section
/-! SUPPORT. Suspension: an engine that is interrupted by host accesses and resumed does what it does
when none is to come (20_memory.md R58, R60). -/

namespace Sys2Proof.Machine

/-- The state without the host's accesses to come. -/
def State.quiet (s : State) : State := { s with host := [] }

@[simp] theorem State.quiet_host (s : State) : s.quiet.host = [] := rfl

@[simp] theorem State.quiet_params (s : State) : s.quiet.params = s.params := rfl

@[simp] theorem State.pass_quiet (d : Nat) (s : State) : (s.pass d).quiet = s.quiet.pass d := rfl

@[simp] theorem State.setDrive_quiet (l : Level) (s : State) : (s.setDrive l).quiet = s.quiet.setDrive l := rfl

@[simp] theorem State.finish_quiet (c : ResultCode) (s : State) : (s.finish c).quiet = s.quiet.finish c := rfl

@[simp] theorem State.tick_quiet (s : State) : s.tick.quiet = s.quiet := by
  unfold State.tick
  split
  · rfl
  · split <;> rfl

theorem State.writeRx_quiet (i : Nat) (v : Byte) (s : State) : (s.writeRx i v).quiet = s.quiet.writeRx i v := by
  unfold State.writeRx
  by_cases h : i < s.params.val.rxCapacity
  · rw [if_pos h, if_pos (show i < s.quiet.params.val.rxCapacity from h)]
    rfl
  · rw [if_neg h, if_neg (show ¬ i < s.quiet.params.val.rxCapacity from h)]

theorem State.writeTx_quiet (i : Nat) (v : Byte) (s : State) : (s.writeTx i v).quiet = s.quiet.writeTx i v := by
  unfold State.writeTx
  by_cases h : i < s.params.val.txCapacity
  · rw [if_pos h, if_pos (show i < s.quiet.params.val.txCapacity from h)]
    rfl
  · rw [if_neg h, if_neg (show ¬ i < s.quiet.params.val.txCapacity from h)]

theorem State.writeTxCrc_quiet (i : Nat) (c : Word) (s : State) :
    (s.writeTxCrc i c).quiet = s.quiet.writeTxCrc i c := by
  rw [State.writeTxCrc, State.writeTx_quiet, State.writeTx_quiet]
  rfl

/-- A step without a duration does not read or write the host's accesses. -/
theorem Action.run_quiet (a : Action) (s : State) : (a.run s).quiet = a.run s.quiet := by
  cases a
  case orBit => exact State.writeRx_quiet _ _ s
  case crcAppend => exact congrArg (State.storeCrc _) (State.writeTxCrc_quiet _ _ s)
  case appendFrameCrc => exact congrArg (State.storeCrc _) (State.writeTxCrc_quiet _ _ s)
  case callReceive off n => cases n <;> rfl
  case zeroRx n => cases n <;> rfl
  all_goals rfl

/-- A condition does not read the host's accesses. -/
theorem Cond.holds_quiet (c : Cond) (s : State) : c.holds s.quiet = c.holds s := by
  cases c <;> rfl

theorem Qty.value_quiet (n : Qty) (s : State) : n.value s.quiet = n.value s := by
  cases n <;> rfl

theorem Source.bytes_quiet (src : Source) (s : State) : src.bytes s.quiet = src.bytes s := by
  cases src <;> rfl

theorem Finish.result_quiet (f : Finish) (s : State) : f.result s.quiet = f.result s := by
  cases f <;> rfl

/-- The end of a stretch that is resumed, when it was suspended, with no host access to come. -/
def Res.resume : Res → Res
  | .done s => .done s.quiet
  | .brk s => .brk s.quiet
  | .ret s => .ret s.quiet
  | .fin s => .fin s.quiet
  | .susp k s => eval k s.quiet

theorem waitUs_resume (d : Nat) (s : State) : (waitUs d s).resume = .done (s.quiet.pass d) := by
  have hd : ∀ (k : Nat) (t : State), eval (.delay (.lit k)) t.quiet = .done (t.quiet.pass k) := fun k t =>
    eval_delay (.lit k) (State.quiet_host t)
  unfold waitUs
  split
  · exact hd d s
  · split
    · rfl
    · rename_i e rest he
      split
      · rename_i hw
        have hlt : e.wait < d := by
          simp only [Bool.and_eq_true, decide_eq_true_eq] at hw
          exact hw.2
        have hadd : e.wait + (d - e.wait) = d := by omega
        split
        · rw [Res.resume, hd, State.pass_quiet, State.pass_pass, hadd]
        · rw [Res.resume, State.pass_quiet, State.tick_quiet, State.pass_quiet, State.pass_pass, hadd]
      · rw [Res.resume, State.pass_quiet, State.tick_quiet]

theorem Res.andThen_resume (r : Res) (b : Stmt) (h : ∀ s, (eval b s).resume = eval b s.quiet) :
    (r.andThen b (eval b)).resume = r.resume.andThen b (eval b) := by
  cases r with
  | done s => exact h s
  | susp k s =>
    rw [Res.andThen, Res.resume, eval]
    rfl
  | brk s => rfl
  | ret s => rfl
  | fin s => rfl

theorem driveAll_resume (gs : List Segment) (s : State) : (driveAll gs s).resume = driveAll gs s.quiet := by
  induction gs generalizing s with
  | nil => rfl
  | cons g gs ih =>
    have hev : eval (.drives gs) = driveAll gs := by
      funext t
      rw [eval]
    have hq : driveAll (g :: gs) s.quiet = (waitUs g.len (s.quiet.setDrive g.level)).andThen (.drives gs) (driveAll gs) := by
      rw [driveAll, if_neg]
      simp [State.due]
    rw [driveAll]
    split
    · rw [Res.resume, eval]
    · rw [← hev, Res.andThen_resume _ _ (by intro t; rw [eval, eval]; exact ih t), waitUs_resume, hq,
        waitUs_host_nil _ (by rfl), hev]
      rfl

theorem iterate_resume (b : Stmt) (h : ∀ s, (eval b s).resume = eval b s.quiet) (n : Nat) (s : State) :
    (iterate (eval b) b n s).resume = iterate (eval b) b n s.quiet := by
  induction n generalizing s with
  | zero => rfl
  | succ n ih =>
    rw [iterate, iterate, ← h s]
    cases eval b s with
    | done t => exact ih t
    | susp k t =>
      rw [Res.looped, Res.resume, eval]
      rfl
    | brk t => rfl
    | ret t => rfl
    | fin t => rfl

/-- What a suspended engine still does is what it does undisturbed. -/
theorem eval_resume (c : Stmt) (s : State) : (eval c s).resume = eval c s.quiet := by
  induction c generalizing s with
  | skip => rfl
  | act a =>
    rw [eval_act a (State.quiet_host s), eval, atomic]
    split
    · rw [Res.resume, eval_act a (State.quiet_host s)]
    · rw [Res.resume, Action.run_quiet, State.tick_quiet]
  | delay d => rw [eval, waitUs_resume, eval_delay d (State.quiet_host s), Qty.value_quiet]
  | drives gs => rw [eval, driveAll_resume, eval]
  | send src => rw [eval, driveAll_resume, eval, Source.bytes_quiet, State.quiet_params]
  | seq a b iha ihb => rw [eval, Res.andThen_resume _ _ ihb, iha, eval]
  | ite c a b iha ihb =>
    rw [eval, eval, Cond.holds_quiet]
    split
    · exact iha s
    · exact ihb s
  | loop n b ih => rw [eval, iterate_resume b ih, eval, Qty.value_quiet]
  | iter c n b ihc ihb =>
    rw [eval, eval, ← ihc s]
    cases eval c s with
    | done t => exact iterate_resume b ihb n t
    | susp k t =>
      rw [Res.looped, Res.resume, eval]
      rfl
    | brk t => rfl
    | ret t => rfl
    | fin t => rfl
  | proc b ih =>
    rw [eval, eval, ← ih s]
    cases eval b s with
    | susp k t =>
      rw [Res.returned, Res.resume, eval]
      rfl
    | done t => rfl
    | brk t => rfl
    | ret t => rfl
    | fin t => rfl
  | brk => rfl
  | ret => rfl
  | finish f =>
    rw [eval_finish f (State.quiet_host s), eval]
    split
    · rw [Res.resume, eval_finish f (State.quiet_host s)]
    · rw [Res.resume, State.finish_quiet, State.tick_quiet, Finish.result_quiet]

end Sys2Proof.Machine
end

