-- ==== Sys2Proof/Laws/Observe.lean ====
section
/-! SUPPORT. What the engine does not look at: what the host has read, CMD_REJECTED, and the stored
position while it runs. -/

namespace Sys2Proof.Machine

/-- The state without what the host has read, CMD_REJECTED, and the sequencer's stored position. -/
def State.blind (s : State) : State :=
  { s with
    reads := []
    freeCount := 0
    status := { s.status with cmdRejected := false }
    seq := { s.seq with code := .skip } }

/-- The end of a stretch, its state changed. -/
def Res.map (f : State → State) : Res → Res
  | .done s => .done (f s)
  | .brk s => .brk (f s)
  | .ret s => .ret (f s)
  | .fin s => .fin (f s)
  | .susp k s => .susp k (f s)

theorem State.writeRx_blind (i : Nat) (v : Byte) (s : State) : (s.writeRx i v).blind = s.blind.writeRx i v := by
  unfold State.writeRx
  by_cases h : i < s.params.val.rxCapacity
  · rw [if_pos h, if_pos (show i < s.blind.params.val.rxCapacity from h)]
    rfl
  · rw [if_neg h, if_neg (show ¬ i < s.blind.params.val.rxCapacity from h)]

theorem State.writeTx_blind (i : Nat) (v : Byte) (s : State) : (s.writeTx i v).blind = s.blind.writeTx i v := by
  unfold State.writeTx
  by_cases h : i < s.params.val.txCapacity
  · rw [if_pos h, if_pos (show i < s.blind.params.val.txCapacity from h)]
    rfl
  · rw [if_neg h, if_neg (show ¬ i < s.blind.params.val.txCapacity from h)]

theorem State.writeTxCrc_blind (i : Nat) (c : Word) (s : State) :
    (s.writeTxCrc i c).blind = s.blind.writeTxCrc i c := by
  rw [State.writeTxCrc, State.writeTx_blind, State.writeTx_blind]
  rfl

theorem Action.run_blind (a : Action) (s : State) : (a.run s).blind = a.run s.blind := by
  cases a
  case orBit => exact State.writeRx_blind _ _ s
  case crcAppend => exact congrArg (State.storeCrc _) (State.writeTxCrc_blind _ _ s)
  case appendFrameCrc => exact congrArg (State.storeCrc _) (State.writeTxCrc_blind _ _ s)
  case callReceive off n => cases n <;> rfl
  case zeroRx n => cases n <;> rfl
  all_goals rfl

theorem State.tick_blind (s : State) : s.tick.blind = s.blind.tick := by
  unfold State.tick
  have : s.blind.host = s.host := rfl
  rw [this]
  split
  · rfl
  · split <;> rfl

theorem waitUs_blind (d : Nat) (s : State) : waitUs d s.blind = (waitUs d s).map State.blind := by
  have ht : ∀ d, s.blind.tick.pass d = (s.tick.pass d).blind := by
    intro d
    rw [← State.tick_blind]
    rfl
  have ht2 : ∀ d e, (s.blind.pass e).tick.pass d = ((s.pass e).tick.pass d).blind := by
    intro d e
    have : s.blind.pass e = (s.pass e).blind := rfl
    rw [this, ← State.tick_blind]
    rfl
  unfold waitUs
  have h : s.blind.due = s.due := rfl
  have h2 : s.blind.host = s.host := rfl
  have h3 : ∀ d, (s.blind.pass d).due = (s.pass d).due := fun _ => rfl
  rw [h, h2]
  split
  · rfl
  · split
    · rfl
    · rw [h3, ht2, ht]
      split
      · split <;> rfl
      · rfl

theorem Res.andThen_blind (r : Res) (b : Stmt) (f : State → Res) (h : ∀ s : State, f s.blind = (f s).map State.blind) :
    (r.map State.blind).andThen b f = (r.andThen b f).map State.blind := by
  cases r <;> first | exact h _ | rfl

theorem Res.looped_blind (r : Res) (n : Nat) (b : Stmt) (f : State → Res)
    (h : ∀ s : State, f s.blind = (f s).map State.blind) :
    (r.map State.blind).looped n b f = (r.looped n b f).map State.blind := by
  cases r <;> first | exact h _ | rfl

theorem driveAll_blind (gs : List Segment) (s : State) : driveAll gs s.blind = (driveAll gs s).map State.blind := by
  induction gs generalizing s with
  | nil => rfl
  | cons g gs ih =>
    rw [driveAll, driveAll]
    have h : s.blind.due = s.due := rfl
    have h2 : s.blind.setDrive g.level = (s.setDrive g.level).blind := rfl
    rw [h, h2, waitUs_blind, Res.andThen_blind _ _ _ ih]
    split <;> rfl

theorem iterate_blind (f : State → Res) (b : Stmt) (h : ∀ s : State, f s.blind = (f s).map State.blind) (n : Nat)
    (s : State) : iterate f b n s.blind = (iterate f b n s).map State.blind := by
  induction n generalizing s with
  | zero => rfl
  | succ n ih => rw [iterate, iterate, h, Res.looped_blind _ _ _ _ ih]

/-- The engine does not read or write what `blind` removes, until `finish`. -/
theorem eval_blind (c : Stmt) (s : State) : eval c s.blind = (eval c s).map State.blind := by
  induction c generalizing s with
  | skip => rfl
  | act a =>
    rw [eval, eval, atomic, atomic]
    have h : s.blind.due = s.due := rfl
    rw [h, ← State.tick_blind, ← Action.run_blind]
    split <;> rfl
  | delay d =>
    have : d.value s.blind = d.value s := by cases d <;> rfl
    rw [eval, eval, this, waitUs_blind]
  | drives gs => rw [eval, eval, driveAll_blind]
  | send src =>
    have : src.bytes s.blind = src.bytes s := by cases src <;> rfl
    rw [eval, eval, this]
    exact driveAll_blind _ _
  | seq a b iha ihb => rw [eval, eval, iha, Res.andThen_blind _ _ _ ihb]
  | ite c a b iha ihb =>
    have : c.holds s.blind = c.holds s := by cases c <;> rfl
    rw [eval, eval, this, iha, ihb]
    split <;> rfl
  | loop n b ih =>
    have : n.value s.blind = n.value s := by cases n <;> rfl
    rw [eval, eval, this, iterate_blind _ _ ih]
  | iter c n b ihc ihb => rw [eval, eval, ihc, Res.looped_blind _ _ _ _ (fun t => iterate_blind _ _ ihb _ t)]
  | proc b ih =>
    rw [eval, eval, ih]
    cases eval b s <;> rfl
  | brk => rfl
  | ret => rfl
  | finish f =>
    have h : s.blind.due = s.due := rfl
    have h2 : f.result s.blind = f.result s := by cases f <;> rfl
    rw [eval, eval, h, ← State.tick_blind, h2]
    split <;> rfl

/-- ACTIVE after a stretch that started with ACTIVE = 1: only `finish` clears it. -/
def Res.Live : Res → Prop
  | .done s => s.status.active = true
  | .brk s => s.status.active = true
  | .ret s => s.status.active = true
  | .susp _ s => s.status.active = true
  | .fin s => s.status.active = false ∧ s.seq = Sequencer.idle

theorem Action.run_active (a : Action) (s : State) : (a.run s).status.active = s.status.active := by
  cases a
  case orBit => exact congrArg Status.active (State.writeRx_status _ _ s)
  case crcAppend => exact congrArg Status.active (State.writeTxCrc_status _ _ s)
  case appendFrameCrc => exact congrArg Status.active (State.writeTxCrc_status _ _ s)
  all_goals rfl

theorem waitUs_live (d : Nat) (s : State) (h : s.status.active = true) : (waitUs d s).Live := by
  have ht : ∀ t : State, t.status.active = true → t.tick.status.active = true := fun t ht => by
    rw [State.tick_status]
    exact ht
  unfold waitUs
  split
  · exact h
  · split
    · exact h
    · split
      · split
        · exact h
        · exact ht _ h
      · exact ht _ h

theorem Res.andThen_live (r : Res) (b : Stmt) (f : State → Res) (hr : r.Live)
    (h : ∀ s : State, s.status.active = true → (f s).Live) : (r.andThen b f).Live := by
  cases r <;> first | exact h _ hr | exact hr

theorem Res.looped_live (r : Res) (n : Nat) (b : Stmt) (f : State → Res) (hr : r.Live)
    (h : ∀ s : State, s.status.active = true → (f s).Live) : (r.looped n b f).Live := by
  cases r <;> first | exact h _ hr | exact hr

theorem driveAll_live (gs : List Segment) (s : State) (h : s.status.active = true) : (driveAll gs s).Live := by
  induction gs generalizing s with
  | nil => exact h
  | cons g gs ih =>
    rw [driveAll]
    split
    · exact h
    · exact Res.andThen_live _ _ _ (waitUs_live _ _ h) ih

theorem iterate_live (f : State → Res) (b : Stmt) (hf : ∀ s : State, s.status.active = true → (f s).Live) (n : Nat)
    (s : State) (h : s.status.active = true) : (iterate f b n s).Live := by
  induction n generalizing s with
  | zero => exact h
  | succ n ih => exact Res.looped_live _ _ _ _ (hf s h) ih

/-- Only `finish` clears ACTIVE, and it leaves the sequencer idle. -/
theorem eval_live (c : Stmt) (s : State) (h : s.status.active = true) : (eval c s).Live := by
  induction c generalizing s with
  | skip => exact h
  | act a =>
    rw [eval, atomic]
    split
    · exact h
    · show (a.run s.tick).status.active = true
      rw [Action.run_active, State.tick_status]
      exact h
  | delay d => exact waitUs_live _ _ h
  | drives gs => exact driveAll_live _ _ h
  | send src => exact driveAll_live _ _ h
  | seq a b iha ihb => exact Res.andThen_live _ _ _ (iha s h) ihb
  | ite c a b iha ihb =>
    rw [eval]
    split
    · exact iha s h
    · exact ihb s h
  | loop n b ih => exact iterate_live _ _ ih _ _ h
  | iter c n b ihc ihb => exact Res.looped_live _ _ _ _ (ihc s h) (fun t ht => iterate_live _ _ ihb _ _ ht)
  | proc b ih =>
    have hb := ih s h
    rw [eval]
    revert hb
    cases eval b s <;> exact id
  | brk => exact h
  | ret => exact h
  | finish f =>
    rw [eval]
    split
    · exact h
    · exact ⟨rfl, rfl⟩

end Sys2Proof.Machine
end

