-- ==== Sys2Proof/Laws/Operands.lean ====
section
/-! SUPPORT. What the conditions of Machine/Operands.lean and Machine/CrcEngine.lean say, as propositions. -/

namespace Sys2Proof.Machine

theorem State.boundIllegal_iff (s : State) :
    s.boundIllegal = true ↔ s.bound < 4 ∨ s.params.val.rxCapacity < s.bound := by
  unfold State.boundIllegal
  rw [Bool.or_eq_true, decide_eq_true_eq, decide_eq_true_eq]

theorem State.exchangeIllegal_iff (s : State) :
    s.exchangeIllegal = true ↔
      s.tx.frameLen < 7 ∨ s.params.val.txCapacity < s.tx.frameLen ∨ s.bound < 4 ∨ s.params.val.rxCapacity < s.bound := by
  unfold State.exchangeIllegal
  rw [Bool.or_eq_true, Bool.or_eq_true, decide_eq_true_eq, decide_eq_true_eq, State.boundIllegal_iff, or_assoc]

theorem State.lengthIllegal_iff (s : State) :
    s.lengthIllegal = true ↔ s.rx.frameLen = 0xFF ∨ s.rx.frameLen < 4 ∨ s.bound < s.rx.frameLen := by
  unfold State.lengthIllegal
  rw [Bool.or_eq_true, Bool.or_eq_true, beq_iff_eq, decide_eq_true_eq, decide_eq_true_eq, or_assoc]

/-- CheckFrame outside its guard (41_crc.md R132). -/
theorem Memory.checkFrame_badLen_iff (m : Memory) (cap : Nat) :
    m.checkFrame cap = .badLen ↔ m.frameLen < 3 ∨ cap < m.frameLen := by
  unfold Memory.checkFrame
  by_cases h : m.frameLen < 3 ∨ cap < m.frameLen
  · have hb : (m.frameLen < 3 || cap < m.frameLen : Bool) = true := by
      rw [Bool.or_eq_true, decide_eq_true_eq, decide_eq_true_eq]
      exact h
    simp [hb, h]
  · have hb : (m.frameLen < 3 || cap < m.frameLen : Bool) = false := by
      rw [Bool.eq_false_iff, ne_eq, Bool.or_eq_true, decide_eq_true_eq, decide_eq_true_eq]
      exact h
    rw [hb]
    simp only [Bool.false_eq_true, if_false, h, iff_false]
    split <;> simp

/-- CheckFrame inside its guard (41_crc.md R132). -/
theorem Memory.checkFrame_eq (m : Memory) (cap : Nat) (h3 : 3 ≤ m.frameLen) (hc : m.frameLen ≤ cap) :
    m.checkFrame cap =
      if m.read (m.frameLen - 2) = loByte m.frameCrc ∧ m.read (m.frameLen - 1) = hiByte m.frameCrc then .matched
      else .mismatch := by
  have hb : (m.frameLen < 3 || cap < m.frameLen : Bool) = false := by
    rw [Bool.eq_false_iff, ne_eq, Bool.or_eq_true, decide_eq_true_eq, decide_eq_true_eq]
    omega
  unfold Memory.checkFrame
  rw [hb]
  simp only [Bool.false_eq_true, if_false, Bool.and_eq_true, beq_iff_eq]

theorem Memory.checkFrame_matched_iff (m : Memory) (cap : Nat) (h3 : 3 ≤ m.frameLen) (hc : m.frameLen ≤ cap) :
    m.checkFrame cap = .matched ↔
      m.read (m.frameLen - 2) = loByte m.frameCrc ∧ m.read (m.frameLen - 1) = hiByte m.frameCrc := by
  rw [Memory.checkFrame_eq m cap h3 hc]
  split <;> simp_all

end Sys2Proof.Machine
end

