-- ==== Sys2Proof/Laws/PerInstr.lean ====
section
/-! SUPPORT. Statements about every operation as syntax, one lemma per operation. -/

namespace Sys2Proof.Laws.DecodeEncode

/-- The operation's code (30_encoding.md R80) decodes to it, as a CMD byte and as a word of
spec/opcode_table.json. -/
def Statement (i : Instr) : Prop :=
  i.wellFormed = true → decode (encode i) = some i ∧ decodeTableWord 8 (encode i).toNat = some i

theorem setSignal : Statement .setSignal := fun _ => by decide

theorem sendBytes : Statement .sendBytes := fun _ => by decide

theorem receiveBytes : Statement .receiveBytes := fun _ => by decide

theorem wakePulse : Statement .wakePulse := fun _ => by decide

theorem sleepByte : Statement .sleepByte := fun _ => by decide

theorem crcCompute : Statement .crcCompute := fun _ => by decide

theorem crcAppend : Statement .crcAppend := fun _ => by decide

theorem crcCheckRx : Statement .crcCheckRx := fun _ => by decide

theorem crcCheckTx : Statement .crcCheckTx := fun _ => by decide

theorem receiveFrame : Statement .receiveFrame := fun _ => by decide

theorem wakeup : Statement .wakeup := fun _ => by decide

theorem resync : Statement .resync := fun _ => by decide

theorem sendAndReceive : Statement .sendAndReceive := fun _ => by decide

end Sys2Proof.Laws.DecodeEncode
end

