-- ==== Sys2Proof/Tests/Slice0.lean ====
section
/-! SUPPORT. Tests: ill-formed parameter sets are refused, codes and bus words written out from the
spec decode, single operations give the results of spec/95_test_vectors.md, and a state meets the
hypotheses of every statement that has some. -/

namespace Sys2Proof.Tests

-- One declaration after the other: in parallel they wait for each other in many threads.
set_option Elab.async false

open Sys2Proof.Machine

/-- The parameter set TP of spec/95_test_vectors.md part 3. -/
def tp : Params where
  txCapacity := 64
  rxCapacity := 64
  tSample := 2
  t1Low := 4
  t1High := 30
  t0Low1 := 4
  t0High1 := 4
  t0Low2 := 4
  t0High2 := 26
  nStart := 50
  nRise := 5
  nZero := 6
  tWakeLow := 60
  tWakeSettle := 2500
  tSyncTimeout := 1000
  tMaxExecDelay := 5000
  tPoll := 500
  nSendAttempts := 3
  nRecvAttempts := 2
  sleepByte := 0xCC
  wakeAck := 0x11
  wakeSigLo := 0x33
  wakeSigHi := 0x43
  stSuccess := 0x00
  stParse := 0x03
  stExec := 0x0F
  stComm := 0xFF
  cmdPrefix := []
  rxPrefix := []

theorem test_tp_wf : tp.wf = true := by decide

/-- The machine after reset, with TP and a device that never pulls the line. -/
def base : State := { State.reset with params := ⟨tp, test_tp_wf⟩, dev := [] }

/-- A buffer with these first bytes. -/
def bytes (bs : List Byte) : Memory := bs.zipIdx.foldl (fun m p => m.write p.2 p.1) []

/-- The device's LOW pulses for one bit from `t` on (spec/95_test_vectors.md part 3). -/
def devBit (t : Nat) (b : Bool) : List Pulse := if b then [⟨t, t + 4⟩] else [⟨t, t + 4⟩, ⟨t + 8, t + 12⟩]

/-- The device's LOW pulses for a bit list from `t` on. -/
def devBits : Nat → List Bool → List Pulse
  | _, [] => []
  | t, b :: bs => devBit t b ++ devBits (t + if b then 34 else 38) bs

/-- A byte list sent by the device from `t` on. -/
def devBytes (t : Nat) (bs : List Byte) : List Pulse := devBits t (bs.flatMap bitsOf)

/-- The state an operation leads to. -/
def ran (i : Instr) (s : State) : State :=
  match exec i s with
  | .next t => t
  | .fault _ => s
  | .refused _ => s

theorem exec_ran (i : Instr) (s : State) : exec i s = .next (ran i s) := by
  cases i <;> rfl

/-! ### WellFormed: one set for each constraint of 00_scope.md R7 -/

theorem test_wf_least : Params.least.wf = true := by decide
theorem test_wf_txCapacity_low : { tp with txCapacity := 6 }.wf = false := by decide
theorem test_wf_txCapacity_high : { tp with txCapacity := 256 }.wf = false := by decide
theorem test_wf_rxCapacity_low : { tp with rxCapacity := 3 }.wf = false := by decide
theorem test_wf_rxCapacity_high : { tp with rxCapacity := 255 }.wf = false := by decide
theorem test_wf_tSample : { tp with tSample := 0 }.wf = false := by decide
theorem test_wf_t1Low : { tp with t1Low := 0 }.wf = false := by decide
theorem test_wf_t1High : { tp with t1High := 0 }.wf = false := by decide
theorem test_wf_t0Low1 : { tp with t0Low1 := 0 }.wf = false := by decide
theorem test_wf_t0High1 : { tp with t0High1 := 0 }.wf = false := by decide
theorem test_wf_t0Low2 : { tp with t0Low2 := 0 }.wf = false := by decide
theorem test_wf_t0High2 : { tp with t0High2 := 0 }.wf = false := by decide
theorem test_wf_nStart : { tp with nStart := 0 }.wf = false := by decide
theorem test_wf_nRise : { tp with nRise := 0 }.wf = false := by decide
theorem test_wf_nZero : { tp with nZero := 0 }.wf = false := by decide
theorem test_wf_tWakeLow : { tp with tWakeLow := 0 }.wf = false := by decide
theorem test_wf_tPoll : { tp with tPoll := 0 }.wf = false := by decide
theorem test_wf_nSendAttempts : { tp with nSendAttempts := 0 }.wf = false := by decide
theorem test_wf_nRecvAttempts : { tp with nRecvAttempts := 0 }.wf = false := by decide
theorem test_wf_status : { tp with stExec := 0x03 }.wf = false := by decide
theorem test_wf_cmdPrefix : { tp with cmdPrefix := List.replicate 9 0 }.wf = false := by decide
theorem test_wf_rxPrefix : { tp with rxPrefix := List.replicate 9 0 }.wf = false := by decide

/-! ### Decode: the codes of 30_encoding.md R80, bit by bit, and words of R88 -/

theorem test_decode_setSignal : decode 0b00010000 = some .setSignal := by decide
theorem test_decode_sendBytes : decode 0b00010001 = some .sendBytes := by decide
theorem test_decode_receiveBytes : decode 0b00010010 = some .receiveBytes := by decide
theorem test_decode_wakePulse : decode 0b00010011 = some .wakePulse := by decide
theorem test_decode_sleepByte : decode 0b00010100 = some .sleepByte := by decide
theorem test_decode_crcCompute : decode 0b00100000 = some .crcCompute := by decide
theorem test_decode_crcAppend : decode 0b00100001 = some .crcAppend := by decide
theorem test_decode_crcCheckRx : decode 0b00100010 = some .crcCheckRx := by decide
theorem test_decode_crcCheckTx : decode 0b00100011 = some .crcCheckTx := by decide
theorem test_decode_receiveFrame : decode 0b00110000 = some .receiveFrame := by decide
theorem test_decode_wakeup : decode 0b00110001 = some .wakeup := by decide
theorem test_decode_resync : decode 0b00110010 = some .resync := by decide
theorem test_decode_sendAndReceive : decode 0b00110011 = some .sendAndReceive := by decide
theorem test_decode_unassigned : decode 0b00010101 = none := by decide
theorem test_bus_write : decodeBus 0x80021 = some (.write 0x000 0x21) := by decide
theorem test_bus_read : decodeBus 0x00100 = some (.read 0x001) := by decide
theorem test_bus_bit18 : decodeBus 0x40100 = none := by decide
theorem test_bus_read_data : decodeBus 0x00101 = none := by decide

/-! ### Single operations: spec/95_test_vectors.md parts 2 and 4 -/

/-- RBIT-1: the device sends 0x01 from t = 10. -/
def oneByte : State := { base with argLen := 1, dev := devBytes 10 [0x01] }

/-- TRX-1 -/
theorem test_setSignal_low : (ran .setSignal base).wireByte = 0x02 ∧ (ran .setSignal base).now = 0 := by decide
/-- TRX-2 -/
theorem test_setSignal_high : (ran .setSignal { base with argLevel := true }).wireByte = 0x01 := by decide
/-- TRX-3 -/
theorem test_sendBytes_07 : (ran .sendBytes { base with argLen := 1, tx := bytes [0x07] }).now = 292 := by
  decide +kernel
/-- TRX-5 -/
theorem test_sendBytes_65 : (ran .sendBytes { base with argLen := 65 }).result = .parameterError := by
  decide +kernel
/-- RBIT-1 -/
theorem test_receiveBytes_01 :
    (ran .receiveBytes oneByte).rx = bytes [0x01] ∧ (ran .receiveBytes oneByte).now = 284 := by
  decide +kernel
/-- RBIT-4 -/
theorem test_receiveBytes_held :
    (ran .receiveBytes { base with argLen := 1, dev := [⟨0, 1000⟩] }).now = 12 := by
  decide +kernel
/-- TRX-8 -/
theorem test_wakePulse : (ran .wakePulse base).trace.reverse = [⟨.low, 60⟩, ⟨.high, 2500⟩] := by decide +kernel
/-- TRX-7 -/
theorem test_sleepByte : (ran .sleepByte { base with commState := .awakeSynced }).commState = .unknownAsleep ∧
    (ran .sleepByte base).now = 288 := by
  decide +kernel
/-- CRC-1 -/
theorem test_crcCompute : (ran .crcCompute { base with argLen := 5, tx := bytes [0x07, 0x1B] }).crcResult = 0xCD24 := by
  decide +kernel
/-- CRC-4 -/
theorem test_crcAppend : (ran .crcAppend { base with argLen := 5, tx := bytes [0x07, 0x02] }).tx =
    bytes [0x07, 0x02, 0x00, 0x00, 0x00, 0x1E, 0x2D] := by
  decide +kernel
/-- CRC-5 -/
theorem test_crcAppend_63 : (ran .crcAppend { base with argLen := 63 }).result = .parameterError := by decide +kernel
/-- CRC-8 -/
theorem test_crcCheckRx_good : (ran .crcCheckRx { base with rx := bytes [0x04, 0x11, 0x33, 0x43] }).result = .success := by
  decide +kernel
/-- CRC-9 -/
theorem test_crcCheckRx_bad :
    (ran .crcCheckRx { base with rx := bytes [0x04, 0x11, 0x33, 0x44] }).result = .badChecksum ∧
    (ran .crcCheckRx { base with rx := bytes [0x04, 0x11, 0x33, 0x44] }).crcResult = 0x4333 := by
  decide +kernel
/-- CRC-14 -/
theorem test_crcCheckTx_good : (ran .crcCheckTx { base with tx := bytes [0x04, 0x42, 0x8F, 0x41] }).result = .success := by
  decide +kernel
/-- CRC-13 -/
theorem test_crcCheckTx_bad :
    (ran .crcCheckTx { base with tx := bytes [0x07, 0x02, 0x01, 0x00, 0x00, 0x1E, 0x2D] }).result = .badChecksum ∧
    (ran .crcCheckTx { base with tx := bytes [0x07, 0x02, 0x01, 0x00, 0x00, 0x1E, 0x2D] }).crcResult = 0xA71D := by
  decide +kernel
/-- RF-2 -/
theorem test_receiveFrame_FF :
    (ran .receiveFrame { base with argRspSize := 35, dev := devBytes 10 [0xFF] }).result = .invalidFrameSize ∧
    (ran .receiveFrame { base with argRspSize := 35, dev := devBytes 10 [0xFF] }).now = 266 := by
  decide +kernel
/-- RF-1 -/
theorem test_receiveFrame_status :
    (ran .receiveFrame { base with argRspSize := 4, dev := devBytes 10 [0x04, 0x00, 0x03, 0x40] }).rxCount = 4 ∧
    (ran .receiveFrame { base with argRspSize := 4, dev := devBytes 10 [0x04, 0x00, 0x03, 0x40] }).now = 1184 := by
  decide +kernel
/-- WK-1 -/
theorem test_wakeup_good :
    (ran .wakeup { base with dev := devBytes 2570 [0x04, 0x11, 0x33, 0x43] }).commState = .awakeSynced ∧
    (ran .wakeup { base with dev := devBytes 2570 [0x04, 0x11, 0x33, 0x43] }).now = 3720 := by
  decide +kernel
/-- WK-4 -/
theorem test_wakeup_ack :
    (ran .wakeup { base with dev := devBytes 2570 [0x04, 0x22, 0x33, 0x43] }).result = .commFailure ∧
    (ran .wakeup { base with dev := devBytes 2570 [0x04, 0x22, 0x33, 0x43] }).now = 8720 := by
  decide +kernel
/-- RS-3 -/
theorem test_resync_rewoken :
    (ran .resync { base with argRspSize := 35, dev := devBytes 3958 [0x04, 0x11, 0x33, 0x43] }).status.toByte = 0x06 ∧
    (ran .resync { base with argRspSize := 35, dev := devBytes 3958 [0x04, 0x11, 0x33, 0x43] }).now = 5108 := by
  decide +kernel
/-- RS-4 -/
theorem test_resync_dead : (ran .resync { base with argRspSize := 35 }).result = .fatalCommFailure ∧
    (ran .resync { base with argRspSize := 35 }).now = 9048 := by
  decide +kernel

/-- The inputs of the SEND_AND_RECEIVE vectors. -/
def exchange : State :=
  { base with tx := bytes [0x07, 0x1B], argRspSize := 35, argExecDelay := 1, argExecTimeout := 1 }

/-- SAR-4 -/
theorem test_sendAndReceive_silent : (ran .sendAndReceive exchange).result = .fatalCommFailure ∧
    (ran .sendAndReceive exchange).now = 13120 := by
  decide +kernel
/-- SAR-6 -/
theorem test_sendAndReceive_parse :
    (ran .sendAndReceive { exchange with dev := devBytes 3082 [0x04, 0x03, 0x83, 0x42] }).result =
      .deviceParseError ∧
    (ran .sendAndReceive { exchange with dev := devBytes 3082 [0x04, 0x03, 0x83, 0x42] }).now = 4240 := by
  decide +kernel

/-! ### A state and operands that meet the hypotheses of each statement

`witness_<Name>` is for `Obligations.<Name>`; the statements not listed have no hypotheses. -/

/-- The host's next access is `a`, due now. -/
def hosted (a : HostAccess) (s : State) : State := { s with host := [⟨0, 0, a⟩] }

/-- The state after one step. -/
def after (s : State) : State :=
  match step s with
  | .next t => t
  | .fault _ => s
  | .refused _ => s

theorem step_after (s : State) : step s = .next (after s) := by
  have h : ∃ t, step s = .next t := by
    unfold step
    split
    · exact ⟨_, rfl⟩
    · split
      · rename_i e _ _ _
        cases h : e.access with
        | bus b =>
          cases b with
          | read a => exact ⟨_, rfl⟩
          | write a v =>
            simp only [perform]
            split
            · unfold writeCmd
              split
              · exact ⟨_, exec_ran _ _⟩
              · exact ⟨_, rfl⟩
            · exact ⟨_, rfl⟩
        | waitDone => exact ⟨_, rfl⟩
        | resetAssert => exact ⟨_, rfl⟩
        | resetRelease => exact ⟨_, rfl⟩
      · exact ⟨_, rfl⟩
  obtain ⟨t, h⟩ := h
  simp only [after, h]

theorem base_inv : Inv base where
  txWf := by decide
  rxWf := by decide
  txWithin := by decide
  rxWithin := by decide
  notBoth := by decide
  fresh := fun _ _ => ⟨rfl, rfl⟩
  idleSeq := fun _ => rfl
  traceCanonical := by decide
  traceCovers := by decide
  inReset := fun h => absurd h (by decide)

/-- The invariant does not look at the host's accesses to come. -/
theorem inv_hosted (s : State) (h : Inv s) (a : HostAccess) : Inv (hosted a s) where
  txWf := h.txWf
  rxWf := h.rxWf
  txWithin := h.txWithin
  rxWithin := h.rxWithin
  notBoth := h.notBoth
  fresh := h.fresh
  idleSeq := h.idleSeq
  traceCanonical := h.traceCanonical
  traceCovers := h.traceCovers
  inReset := fun hr => congrArg (hosted a) (h.inReset hr)

/-- A command frame of 7 bytes in TX, and a status frame in RX. -/
def framed : State :=
  { exchange with argLen := 5, rx := bytes [0x04, 0x11, 0x33, 0x43] }

theorem framed_inv : Inv framed where
  txWf := by decide
  rxWf := by decide
  txWithin := by decide
  rxWithin := by decide
  notBoth := by decide
  fresh := fun _ _ => ⟨rfl, rfl⟩
  idleSeq := fun _ => rfl
  traceCanonical := by decide
  traceCovers := by decide
  inReset := fun h => absurd h (by decide)

theorem framed_ready : Ready framed := ⟨rfl, rfl, rfl⟩

/-- A wake pulse that runs: the host's second access, a read of STATUS, is due after 5 µs. -/
def running (a : HostAccess) : State := ran .wakePulse { base with host := [⟨5, 0, a⟩] }

/-- The machine held in reset. -/
def held : State := { base with resetIn := true }

theorem held_inv : Inv held where
  txWf := by decide
  rxWf := by decide
  txWithin := by decide
  rxWithin := by decide
  notBoth := by decide
  fresh := fun _ _ => ⟨rfl, rfl⟩
  idleSeq := fun _ => rfl
  traceCanonical := by decide
  traceCovers := by decide
  inReset := fun _ => rfl

/-- At both ends of each range of unassigned codes. -/
theorem witness_DecodeMatchesWholeByte :
    Instr.setSignal.wellFormed = true ∧ Instr.sendAndReceive.wellFormed = true ∧
    (∀ w ∈ [0x00, 0x0F, 0x15, 0x1F, 0x24, 0x2F, 0x34, 0xFF].map (BitVec.ofNat 8),
      (w.toNat ≤ 0x0F ∨ (0x15 ≤ w.toNat ∧ w.toNat ≤ 0x1F) ∨ (0x24 ≤ w.toNat ∧ w.toNat ≤ 0x2F) ∨ 0x34 ≤ w.toNat) ∧
      decode w = none) := by
  decide +kernel

theorem witness_BusWordsRoundTrip :
    decodeBus 0x80021 = some (.write 0x000 0x21) ∧ decodeBus 0x00100 = some (.read 0x001) ∧
    decodeBus 0xBFFFF = some (.write 0x3FF 0xFF) := by
  decide

/-- The first and the last entry of a `rdrx`. -/
theorem witness_HostLinesExpand : (0 : Nat) < 1 ∧ (3 : Nat) < 4 := by decide

theorem witness_StepRunsDecodedOperation :
    Instr.crcAppend.wellFormed = true ∧
    (hosted (.bus (.write 0x000 0x21)) base).host = [⟨0, 0, .bus (.write 0x000 0x21)⟩] ∧
    decode 0x21 = some .crcAppend := by
  decide

/-- Both outcomes: an operation that finishes, and one that waits for a host access. -/
theorem witness_OperationFinishesOrWaits :
    base.status.active = false ∧ base.resetIn = false ∧ exec .setSignal base = .next (ran .setSignal base) ∧
    (ran .setSignal base).status.done = true ∧ (running (.bus (.read 0x001))).status.active = true ∧
    exec .wakePulse { base with host := [⟨5, 0, .bus (.read 0x001)⟩] } = .next (running (.bus (.read 0x001))) :=
  ⟨rfl, rfl, exec_ran _ _, by decide, by decide +kernel, exec_ran _ _⟩

/-- The host's access that is due in a running wake pulse is the only one to come. -/
theorem running_noReset (a : HostAccess) (ha : a ≠ .resetAssert) (h : (running a).host = [⟨0, 0, a⟩]) :
    NoReset (running a) := by
  intro e he
  rw [h, List.mem_singleton] at he
  rw [he]
  exact ha

/-- A wake pulse accepted with a host write still to come, and the host write while it runs. -/
theorem witness_RunningOperationUndisturbed :
    base.status.active = false ∧ base.resetIn = false ∧
    exec .wakePulse { base with host := [⟨5, 0, .bus (.write 0x003 0x01)⟩] } =
      .next (running (.bus (.write 0x003 0x01))) ∧
    (running (.bus (.write 0x003 0x01))).status.active = true ∧
    (running (.bus (.write 0x003 0x01))).resetIn = false ∧
    NoReset (running (.bus (.write 0x003 0x01))) ∧
    step (running (.bus (.write 0x003 0x01))) = .next (after (running (.bus (.write 0x003 0x01)))) :=
  ⟨rfl, rfl, exec_ran _ _, by decide +kernel, by decide +kernel,
    running_noReset _ (by decide) (by decide +kernel), step_after _⟩

theorem witness_TimeOnlyGrows : NoReset base ∧ step base = .next (after base) :=
  ⟨fun _ h => absurd h List.not_mem_nil, step_after _⟩

/-- A whole operation, and a host write to ARG_LEN while one runs. -/
theorem witness_OperationsOnlyReadArguments :
    exec .sendAndReceive exchange = .next (ran .sendAndReceive exchange) ∧
    (running (.bus (.write 0x003 0x01))).status.active = true ∧
    (running (.bus (.write 0x003 0x01))).resetIn = false ∧
    NoReset (running (.bus (.write 0x003 0x01))) ∧
    step (running (.bus (.write 0x003 0x01))) = .next (after (running (.bus (.write 0x003 0x01)))) :=
  ⟨exec_ran _ _, by decide +kernel, by decide +kernel, running_noReset _ (by decide) (by decide +kernel),
    step_after _⟩

theorem witness_UnassignedCodeFinishesAtOnce :
    Inv base ∧ Ready base ∧
    (∀ w ∈ [0x00, 0x0F, 0x15, 0x1F, 0x24, 0x2F, 0x34, 0xFF].map (BitVec.ofNat 8), ∀ i : Instr, w ≠ encode i) := by
  refine ⟨base_inv, ⟨rfl, rfl, rfl⟩, ?_⟩
  intro w hw i
  revert hw
  revert w
  cases i <;> decide +kernel

theorem witness_RejectedCommandSetsOnlyItsBit :
    (running (.bus (.write 0x000 0x31))).status.active = true ∧
    (running (.bus (.write 0x000 0x31))).resetIn = false ∧
    (running (.bus (.write 0x000 0x31))).host = [⟨0, 0, .bus (.write 0x000 0x31)⟩] := by
  decide +kernel

theorem witness_WritesWhileActiveIgnored :
    (running (.bus (.write 0x100 0x31))).status.active = true ∧ (0x100 : Addr) ≠ 0x000 ∧
    (running (.bus (.write 0x100 0x31))).host = [⟨0, 0, .bus (.write 0x100 0x31)⟩] := by
  decide +kernel

/-- Each clause: STATUS, WIRE, a reserved address, an idle engine, an unspecified byte, and a `wait` that
reads DONE = 0 (at a pace of 0 µs and of 7 µs) and DONE = 1. -/
theorem witness_ReadsReturn :
    (running (.bus (.read 0x001))).host = [⟨0, 0, .bus (.read 0x001)⟩] ∧
    (running (.bus (.read 0x00E))).host = [⟨0, 0, .bus (.read 0x00E)⟩] ∧
    (running (.bus (.read 0x00F))).host = [⟨0, 0, .bus (.read 0x00F)⟩] ∧
    (running (.bus (.read 0x00F))).reserved 0x00F = true ∧
    (hosted (.bus (.read 0x002)) base).host = [⟨0, 0, .bus (.read 0x002)⟩] ∧
    (hosted (.bus (.read 0x002)) base).status.active = false ∧
    (running (.bus (.read 0x002))).host = [⟨0, 0, .bus (.read 0x002)⟩] ∧
    (running (.bus (.read 0x002))).status.active = true ∧
    (running (.bus (.read 0x002))).reserved 0x002 = false ∧
    (∀ p ∈ [Pace.mk 0 0, Pace.mk 7 0],
      (running (.waitDone p)).host = [⟨0, 0, .waitDone p⟩] ∧ (running (.waitDone p)).status.done = false) ∧
    (hosted (.waitDone ⟨7, 0⟩) (ran .setSignal base)).host = [⟨0, 0, .waitDone ⟨7, 0⟩⟩] ∧
    (hosted (.waitDone ⟨7, 0⟩) (ran .setSignal base)).status.done = true := by
  decide +kernel

/-- 30_encoding.md R89 over a wake pulse of 60 + 2500 µs (TRX-8): polls at 5, 1005 and 2005 µs read
ACTIVE, and the one at 3005 µs reads DONE. -/
theorem test_wait_polls :
    let s := after (after (after (after (after (after (after (after (running (.waitDone ⟨1000, 0⟩)))))))))
    s.reads = [0x02, 0x01, 0x01, 0x01] ∧ s.now = 3005 ∧ s.host = [] := by
  decide +kernel

/-- The ends of each window and of each reserved range. -/
theorem witness_AddressMap :
    (0x100 : Addr).toNat = 0x100 + 0 ∧ (0x1FF : Addr).toNat = 0x100 + 0xFF ∧ 0xFF < 0x100 ∧
    (0x200 : Addr).toNat = 0x200 + 0 ∧ (0x2FF : Addr).toNat = 0x200 + 0xFF ∧
    (∀ a ∈ [0x00F, 0x0FF, 0x300, 0x3FF].map (BitVec.ofNat 10),
      (0x00F ≤ a.toNat ∧ a.toNat ≤ 0x0FF) ∨ 0x300 ≤ a.toNat) := by
  decide +kernel

/-- The ends of each reserved range, for a read and for a write. -/
theorem witness_ReservedAddresses :
    (∀ a ∈ [0x00F, 0x0FF, 0x140, 0x1FF, 0x240, 0x2FF, 0x300, 0x3FF].map (BitVec.ofNat 10),
      (0x00F ≤ a.toNat ∧ a.toNat ≤ 0x0FF) ∨ (0x100 + base.params.val.txCapacity ≤ a.toNat ∧ a.toNat ≤ 0x1FF) ∨
      (0x200 + base.params.val.rxCapacity ≤ a.toNat ∧ a.toNat ≤ 0x2FF) ∨ 0x300 ≤ a.toNat) ∧
    (hosted (.bus (.read 0x140)) base).host = [⟨0, 0, .bus (.read 0x140)⟩] ∧
    (hosted (.bus (.write 0x140 0x55)) base).host = [⟨0, 0, .bus (.write 0x140 0x55)⟩] := by
  decide +kernel

/-- A write to a RW address, at both ends of each range, and to a read-only one. -/
theorem witness_IdleWriteChangesOnlyItsAddress :
    (∀ a ∈ [0x003, 0x009, 0x100, 0x13F, 0x001, 0x00E, 0x140, 0x200].map (BitVec.ofNat 10),
      Inv (hosted (.bus (.write a 0x55)) base) ∧ (hosted (.bus (.write a 0x55)) base).status.active = false ∧
      (hosted (.bus (.write a 0x55)) base).resetIn = false ∧ a ≠ 0x000) := by
  intro a ha
  refine ⟨inv_hosted _ base_inv _, rfl, rfl, ?_⟩
  revert ha
  revert a
  decide +kernel

/-- Reset in the middle of an operation. -/
theorem witness_ResetFromAnyState :
    (running .resetAssert).host = [⟨0, 0, .resetAssert⟩] ∧ (running .resetAssert).status.active = true := by
  decide +kernel

/-- Each clause: a write, reads of WIRE and of another address, and the release. -/
theorem witness_HeldInReset :
    held.resetIn = true ∧ Inv (hosted (.bus (.write 0x003 0x55)) held) ∧ Inv (hosted (.bus (.read 0x00E)) held) ∧
    Inv (hosted (.bus (.read 0x003)) held) ∧ Inv (hosted .resetRelease held) :=
  ⟨rfl, inv_hosted _ held_inv _, inv_hosted _ held_inv _, inv_hosted _ held_inv _, inv_hosted _ held_inv _⟩

theorem witness_StepKeepsInvariant :
    Inv (hosted (.bus (.write 0x003 0x55)) base) ∧
    step (hosted (.bus (.write 0x003 0x55)) base) = .next (after (hosted (.bus (.write 0x003 0x55)) base)) :=
  ⟨inv_hosted _ base_inv _, step_after _⟩

theorem witness_TokenDurations :
    framed.params.val = tp ∧ Ready framed ∧ framed.argLen.toNat ≤ tp.txCapacity ∧
    ({ framed with argLen := 64 } : State).argLen.toNat ≤ tp.txCapacity :=
  ⟨rfl, framed_ready, by decide, by decide⟩

/-- The shortest frame, and one of 4 bytes; the flip of the next theorem is in byte 1. -/
theorem witness_CrcRoundTripAndSingleBit :
    ([0x03] : List Byte).length = 3 - 2 ∧ (bytes [0x03, 0x80, 0x02]).read 0 = BitVec.ofNat 8 3 ∧
    (bytes [0x03, 0x80, 0x02]).prefixBytes 3 =
      [0x03] ++ [(crc16 [0x03]).extractLsb' 0 8, (crc16 [0x03]).extractLsb' 8 8] ∧
    (bytes [0x04, 0x11, 0x33, 0x43]).prefixBytes 4 =
      [0x04, 0x11] ++ [(crc16 [0x04, 0x11]).extractLsb' 0 8, (crc16 [0x04, 0x11]).extractLsb' 8 8] ∧
    (bytes [0x04, 0x11, 0x33, 0x43]).checkFrame 4 = .matched ∧
    (bytes [0x04, 0x11, 0x33, 0x43]).frameLen = 4 := by
  decide +kernel

theorem witness_CrcRoundTripAndSingleBit_flip (x : Nat) :
    (bytes [0x04, 0x10, 0x33, 0x43]).read x =
      if x = 1 then (bytes [0x04, 0x11, 0x33, 0x43]).read x ^^^ (1#8 <<< 0)
      else (bytes [0x04, 0x11, 0x33, 0x43]).read x := by
  match x with
  | 0 | 1 | 2 | 3 => decide
  | n + 4 => rw [if_neg (by omega)]; rfl

theorem witness_CheckFrameOutcome :
    ((bytes [0x03, 0x80, 0x02]).read 0).toNat = 3 ∧ 3 ≤ 3 ∧ 3 ≤ 64 ∧
    ((bytes [0x02]).read 0).toNat = 2 ∧ 2 < 3 ∧ ((bytes [0x41]).read 0).toNat = 65 ∧ 64 < 65 := by
  decide

theorem witness_StatusByteResult :
    (0x42 : Byte) ≠ tp.stParse ∧ (0x42 : Byte) ≠ tp.stExec ∧ (0x42 : Byte) ≠ tp.stSuccess ∧ (0x42 : Byte) ≠ tp.stComm := by
  decide

/-- One past each bound, for each operation that has a parameter check. -/
theorem witness_ParameterErrors :
    Ready framed ∧
    (∀ i ∈ [Instr.sendBytes, .crcCompute, .receiveBytes], illegal i { framed with argLen := 65 } = true) ∧
    illegal .crcAppend { framed with argLen := 63 } = true ∧
    (∀ b ∈ [0x02, 0x41].map (BitVec.ofNat 8),
      illegal .crcCheckRx { framed with rx := bytes [b] } = true ∧
      illegal .crcCheckTx { framed with tx := bytes [b] } = true) ∧
    (∀ i ∈ [Instr.receiveFrame, .resync, .sendAndReceive],
      illegal i { framed with argRspSize := 3 } = true ∧ illegal i { framed with argRspSize := 65 } = true) ∧
    illegal .sendAndReceive { framed with tx := bytes [0x06] } = true ∧
    illegal .sendAndReceive { framed with tx := bytes [0x41] } = true :=
  ⟨framed_ready, by decide +kernel, by decide +kernel, by decide +kernel, by decide +kernel, by decide +kernel,
    by decide +kernel⟩

theorem witness_SetSignalResult : Ready framed := framed_ready

theorem witness_SendBytesResult :
    Ready { framed with argLen := 64 } ∧ ({ framed with argLen := 64 } : State).argLen.toNat ≤ 64 ∧
    framed.params.val.txCapacity = 64 :=
  ⟨⟨rfl, rfl, rfl⟩, by decide, by decide⟩

theorem witness_WakePulseResult : Ready framed := framed_ready

theorem witness_SleepByteResult : Ready framed := framed_ready

theorem witness_ReceiveBytesResult :
    Ready { framed with argLen := 64 } ∧ ({ framed with argLen := 64 } : State).argLen.toNat ≤ 64 ∧
    framed.params.val.rxCapacity = 64 :=
  ⟨⟨rfl, rfl, rfl⟩, by decide, by decide⟩

theorem witness_CrcComputeResult :
    Ready { framed with argLen := 64 } ∧ ({ framed with argLen := 64 } : State).argLen.toNat ≤ framed.params.val.txCapacity :=
  ⟨⟨rfl, rfl, rfl⟩, by decide⟩

theorem witness_CrcAppendResult :
    Inv framed ∧ Ready framed ∧ framed.argLen.toNat + 2 ≤ framed.params.val.txCapacity :=
  ⟨framed_inv, framed_ready, by decide⟩

theorem witness_CrcCheckRxResult :
    Ready framed ∧ 3 ≤ (framed.rx.read 0).toNat ∧ (framed.rx.read 0).toNat ≤ framed.params.val.rxCapacity :=
  ⟨framed_ready, by decide, by decide⟩

theorem witness_CrcCheckTxResult :
    Ready framed ∧ 3 ≤ (framed.tx.read 0).toNat ∧ (framed.tx.read 0).toNat ≤ framed.params.val.txCapacity :=
  ⟨framed_ready, by decide, by decide⟩

/-- Both ends of the legal response sizes. -/
theorem witness_ReceiveFrameResult :
    (∀ r ∈ [4, 64].map (BitVec.ofNat 8), Ready { framed with argRspSize := r } ∧
      4 ≤ ({ framed with argRspSize := r } : State).argRspSize.toNat ∧
      ({ framed with argRspSize := r } : State).argRspSize.toNat ≤ framed.params.val.rxCapacity) := by
  intro r hr
  refine ⟨⟨rfl, rfl, rfl⟩, ?_⟩
  revert hr
  revert r
  decide +kernel

theorem witness_WakeupResult : Ready framed := framed_ready

theorem witness_ResyncResult :
    Ready framed ∧ 4 ≤ framed.argRspSize.toNat ∧ framed.argRspSize.toNat ≤ framed.params.val.rxCapacity :=
  ⟨framed_ready, by decide, by decide⟩

theorem witness_SendAndReceiveResult :
    Ready framed ∧ 7 ≤ (framed.tx.read 0).toNat ∧ (framed.tx.read 0).toNat ≤ framed.params.val.txCapacity ∧
    4 ≤ framed.argRspSize.toNat ∧ framed.argRspSize.toNat ≤ framed.params.val.rxCapacity :=
  ⟨framed_ready, by decide, by decide, by decide, by decide⟩

theorem witness_ResultSets : Ready framed := framed_ready

/-- For every operation. -/
theorem witness_OperationFrame (i : Instr) : Inv framed ∧ Ready framed ∧ exec i framed = .next (ran i framed) :=
  ⟨framed_inv, framed_ready, exec_ran _ _⟩

theorem witness_WireLeft (i : Instr) : Ready framed ∧ exec i framed = .next (ran i framed) :=
  ⟨framed_ready, exec_ran _ _⟩

/-- An exchange that ends with a frame: SAR-6 of spec/95_test_vectors.md. -/
def answered : State := { framed with dev := devBytes 3082 [0x04, 0x03, 0x83, 0x42] }

/-- For every operation; for SEND_AND_RECEIVE also with a device that answers. -/
theorem witness_CommStateTransitions (i : Instr) :
    Ready framed ∧ illegal i framed = false ∧ exec i framed = .next (ran i framed) ∧ Ready answered ∧
    illegal .sendAndReceive answered = false ∧ (ran .sendAndReceive answered).result ≠ .fatalCommFailure :=
  ⟨framed_ready, by cases i <;> decide +kernel, exec_ran _ _, ⟨rfl, rfl, rfl⟩, by decide +kernel, by decide +kernel⟩

/-- A device that answers nothing but the first wake pulse of an exchange. -/
def rewoken : State := { framed with dev := devBytes 8030 [0x04, 0x11, 0x33, 0x43] }

/-- Each clause: RESYNC without and with a re-wake, a failed parameter check, and an exchange with a re-wake. -/
theorem witness_SessionLost :
    Ready framed ∧ exec .resync framed = .next (ran .resync framed) ∧
    (ran .resync { framed with dev := devBytes 3958 [0x04, 0x11, 0x33, 0x43] }).result = .resyncedWithWakeup ∧
    illegal .resync { framed with argRspSize := 3 } = true ∧
    Ready rewoken ∧ illegal .sendAndReceive rewoken = false ∧
    exec .sendAndReceive rewoken = .next (ran .sendAndReceive rewoken) ∧
    (ran .sendAndReceive rewoken).status.sessionLost = true :=
  ⟨framed_ready, exec_ran _ _, by decide +kernel, by decide +kernel, ⟨rfl, rfl, rfl⟩, by decide +kernel, exec_ran _ _,
    by decide +kernel⟩

theorem witness_ReceiveBytesOutcome :
    Ready framed ∧ framed.argLen.toNat ≤ framed.params.val.rxCapacity ∧
    exec .receiveBytes framed = .next (ran .receiveBytes framed) :=
  ⟨framed_ready, by decide, exec_ran _ _⟩

theorem witness_ReceiveFrameOutcome :
    Inv framed ∧ Ready framed ∧ 4 ≤ framed.argRspSize.toNat ∧
    framed.argRspSize.toNat ≤ framed.params.val.rxCapacity ∧
    exec .receiveFrame framed = .next (ran .receiveFrame framed) :=
  ⟨framed_inv, framed_ready, by decide, by decide, exec_ran _ _⟩

theorem witness_WakeupOutcome : Ready framed ∧ exec .wakeup framed = .next (ran .wakeup framed) :=
  ⟨framed_ready, exec_ran _ _⟩

theorem witness_SendAndReceiveOutcome :
    Inv answered ∧ Ready answered ∧ illegal .sendAndReceive answered = false ∧
    exec .sendAndReceive answered = .next (ran .sendAndReceive answered) ∧
    (ran .sendAndReceive answered).result ≠ .fatalCommFailure := by
  refine ⟨?_, ⟨rfl, rfl, rfl⟩, by decide +kernel, exec_ran _ _, by decide +kernel⟩
  exact {
    txWf := framed_inv.txWf
    rxWf := framed_inv.rxWf
    txWithin := framed_inv.txWithin
    rxWithin := framed_inv.rxWithin
    notBoth := framed_inv.notBoth
    fresh := framed_inv.fresh
    idleSeq := framed_inv.idleSeq
    traceCanonical := framed_inv.traceCanonical
    traceCovers := framed_inv.traceCovers
    inReset := fun h => absurd h (by decide) }

theorem witness_DurationBounds (i : Instr) :
    Ready framed ∧ illegal i framed = false ∧ exec i framed = .next (ran i framed) :=
  ⟨framed_ready, by cases i <;> decide +kernel, exec_ran _ _⟩

theorem witness_SilentDeviceIsFatal :
    Ready framed ∧ illegal .sendAndReceive framed = false ∧ framed.dev = [] :=
  ⟨framed_ready, by decide +kernel, rfl⟩

/-- A silent device; a device that pulls from now on, and until just after the last sample. -/
theorem witness_ReceiveTimeouts :
    Ready framed ∧ 1 ≤ framed.argLen.toNat ∧ framed.argLen.toNat ≤ framed.params.val.rxCapacity ∧ framed.dev = [] ∧
    Ready { framed with dev := [⟨0, 11⟩] } ∧
    (∃ p ∈ ({ framed with dev := [⟨0, 11⟩] } : State).dev, p.start ≤ framed.now ∧
      framed.now + framed.params.val.nRise * framed.params.val.tSample < p.stop) :=
  ⟨framed_ready, by decide, by decide, rfl, ⟨rfl, rfl, rfl⟩, ⟨0, 11⟩, by decide, by decide, by decide⟩

theorem witness_AppendThenCheck :
    Inv framed ∧ Ready framed ∧ 1 ≤ framed.argLen.toNat ∧ framed.argLen.toNat + 2 ≤ framed.params.val.txCapacity ∧
    framed.tx.read 0 = framed.argLen + 2 :=
  ⟨framed_inv, framed_ready, by decide, by decide, by decide⟩

/-- Each clause: no access to come; one that is due in 5 µs, or after an engine step, with reset released
and asserted. -/
theorem witness_IdleStepLetsTheWaitPass :
    base.status.active = false ∧ base.host = [] ∧
    ({ base with host := [⟨5, 0, .waitDone ⟨1, 0⟩⟩] } : State).host = [⟨5, 0, .waitDone ⟨1, 0⟩⟩] ∧ 0 < 5 ∧
    ({ held with host := [⟨0, 1, .resetRelease⟩] } : State).host = [⟨0, 1, .resetRelease⟩] ∧ 0 < 1 ∧
    base.resetIn = false ∧ held.resetIn = true ∧ held.status.active = false := by
  decide

end Sys2Proof.Tests
end

section
/-! O8. How a stretch of pseudocode can end is read off its syntax, and what the engine keeps while it runs is
carried through `eval` once, for any predicate; an accepted operation is an instance of both. -/

namespace Sys2Proof.Machine

/-! ### The pseudocode of an operation -/

/-- The pseudocode an accepted operation runs. -/
def opProgram (p : Params) : Instr → Stmt
  | .setSignal => setSignalCode
  | .sendBytes => sendBytesCode
  | .receiveBytes => receiveBytesOpCode p
  | .wakePulse => wakePulseCode p
  | .sleepByte => sleepByteCode
  | .crcCompute => crcComputeCode
  | .crcAppend => crcAppendCode
  | .crcCheckRx => crcCheckRxCode
  | .crcCheckTx => crcCheckTxCode
  | .receiveFrame => receiveFrameOpCode p
  | .wakeup => wakeupOpCode p
  | .resync => resyncOpCode p
  | .sendAndReceive => sendAndReceiveCode p

theorem exec_eq_command (i : Instr) (s : State) :
    exec i s = .next (command (encode i) (some i) (opProgram s.params.val i) s) := by
  cases i <;> rfl

theorem command_accepted {s : State} (code : Byte) (op : Option Instr) (prog : Stmt)
    (hr : s.resetIn = false) (ha : s.status.active = false) :
    command code op prog s = (eval prog (s.accept code op prog)).state := by
  rw [command, if_neg (by simp [hr]), if_neg (by simp [ha])]
  rfl

/-! ### How a stretch of pseudocode can end -/

/-- Some path runs to the end of the pseudocode. -/
def Stmt.canFall : Stmt → Bool
  | .seq a b => a.canFall && b.canFall
  | .ite _ a b => a.canFall || b.canFall
  | .brk | .ret | .finish _ => false
  | .skip | .act _ | .delay _ | .drives _ | .send _ | .loop .. | .iter .. | .proc _ => true

/-- Some path leaves the pseudocode by a `break` of a loop around it. -/
def Stmt.canBreak : Stmt → Bool
  | .brk => true
  | .seq a b | .ite _ a b => a.canBreak || b.canBreak
  | .proc b => b.canBreak
  | .skip | .act _ | .delay _ | .drives _ | .send _ | .loop .. | .iter .. | .ret | .finish _ => false

/-- Some path leaves the pseudocode by a `return` of a procedure around it. -/
def Stmt.canReturn : Stmt → Bool
  | .ret => true
  | .seq a b | .ite _ a b | .iter a _ b => a.canReturn || b.canReturn
  | .loop _ b => b.canReturn
  | .skip | .act _ | .delay _ | .drives _ | .send _ | .proc _ | .brk | .finish _ => false

/-- The end is one that the syntax of `c` allows. -/
def Res.EndOf (c : Stmt) : Res → Prop
  | .done _ => c.canFall = true
  | .brk _ => c.canBreak = true
  | .ret _ => c.canReturn = true
  | .fin _ | .susp .. => True

theorem Res.EndOf.mono {a c : Stmt} {r : Res} (hr : r.EndOf a) (hfall : a.canFall = true → c.canFall = true)
    (hbrk : a.canBreak = true → c.canBreak = true)
    (hret : a.canReturn = true → c.canReturn = true) : r.EndOf c := by
  cases r with
  | done s => exact hfall hr
  | brk s => exact hbrk hr
  | ret s => exact hret hr
  | fin s | susp k s => trivial

theorem waitUs_endOf {c : Stmt} (hc : c.canFall = true) (d : Nat) (s : State) : (waitUs d s).EndOf c := by
  unfold waitUs
  split
  · trivial
  · split
    · exact hc
    · split
      · split
        · trivial
        · exact hc
      · exact hc

theorem driveAll_endOf {c : Stmt} (hc : c.canFall = true) (gs : List Segment) (s : State) :
    (driveAll gs s).EndOf c := by
  induction gs generalizing s with
  | nil => exact hc
  | cons g gs ih =>
    rw [driveAll]
    split
    · trivial
    · have hw := waitUs_endOf hc g.len (s.setDrive g.level)
      cases hr : waitUs g.len (s.setDrive g.level) with
      | done t => exact ih t
      | susp k t => trivial
      | brk t | ret t | fin t => rwa [hr] at hw

theorem Res.andThen_endOf {a b : Stmt} {r : Res} {f : State → Res} (hr : r.EndOf a) (hf : ∀ s, (f s).EndOf b) :
    (r.andThen b f).EndOf (.seq a b) := by
  cases r with
  | done t =>
    have ha : a.canFall = true := hr
    exact (hf t).mono (by simp [Stmt.canFall, ha]) (fun h => by simp [Stmt.canBreak, h])
      (fun h => by simp [Stmt.canReturn, h])
  | brk t => exact Bool.or_eq_true_iff.mpr (.inl hr)
  | ret t => exact Bool.or_eq_true_iff.mpr (.inl hr)
  | susp k t | fin t => trivial

theorem Res.looped_endOf {a b c : Stmt} {r : Res} {n : Nat} {f : State → Res} (hr : r.EndOf a)
    (hfall : c.canFall = true) (hret : a.canReturn = true → c.canReturn = true) (hf : ∀ s, (f s).EndOf c) :
    (r.looped n b f).EndOf c := by
  cases r with
  | done t => exact hf t
  | brk t => exact hfall
  | ret t => exact hret hr
  | susp k t | fin t => trivial

theorem iterate_endOf {b c : Stmt} {f : State → Res} (hf : ∀ s, (f s).EndOf b) (hfall : c.canFall = true)
    (hret : b.canReturn = true → c.canReturn = true) (n : Nat) (s : State) : (iterate f b n s).EndOf c := by
  induction n generalizing s with
  | zero => exact hfall
  | succ n ih => exact Res.looped_endOf (hf s) hfall hret ih

theorem Res.returned_endOf {b : Stmt} {r : Res} (hr : r.EndOf b) : r.returned.EndOf (.proc b) := by
  cases r with
  | done t | ret t => rfl
  | brk t => exact hr
  | susp k t | fin t => trivial

/-- Pseudocode ends only in the ways its syntax allows. -/
theorem eval_endOf (c : Stmt) (s : State) : (eval c s).EndOf c := by
  induction c generalizing s with
  | skip | brk | ret => rfl
  | act a =>
    rw [eval, atomic]
    split
    · trivial
    · rfl
  | delay d => exact waitUs_endOf rfl _ s
  | drives gs => exact driveAll_endOf rfl gs s
  | send src => exact driveAll_endOf rfl _ s
  | seq a b iha ihb => exact Res.andThen_endOf (iha s) ihb
  | ite c a b iha ihb =>
    rw [eval]
    split
    · exact (iha s).mono (fun h => by simp [Stmt.canFall, h]) (fun h => by simp [Stmt.canBreak, h])
        (fun h => by simp [Stmt.canReturn, h])
    · exact (ihb s).mono (fun h => by simp [Stmt.canFall, h]) (fun h => by simp [Stmt.canBreak, h])
        (fun h => by simp [Stmt.canReturn, h])
  | loop n b ih => exact iterate_endOf (c := .loop n b) ih rfl id _ s
  | iter a n b iha ihb =>
    refine Res.looped_endOf (iha s) rfl ?_ (iterate_endOf ihb rfl ?_ n)
    · exact fun h => by simp [Stmt.canReturn, h]
    · exact fun h => by simp [Stmt.canReturn, h]
  | proc b ih => exact Res.returned_endOf (ih s)
  | finish f =>
    rw [eval]
    split <;> trivial

/-- An operation's pseudocode has no way out but `finish` (00_scope.md R13). -/
theorem opProgram_only_finishes (p : Params) (i : Instr) :
    (opProgram p i).canFall = false ∧ (opProgram p i).canBreak = false ∧
    (opProgram p i).canReturn = false := by
  cases i <;> exact ⟨rfl, rfl, rfl⟩

/-- An operation's pseudocode runs to `finish`, or it is suspended. -/
theorem eval_opProgram (p : Params) (i : Instr) (s : State) :
    (∃ t, eval (opProgram p i) s = .fin t) ∨ (∃ k t, eval (opProgram p i) s = .susp k t) := by
  obtain ⟨hfall, hbrk, hret⟩ := opProgram_only_finishes p i
  have he := eval_endOf (opProgram p i) s
  cases hr : eval (opProgram p i) s with
  | fin t => exact .inl ⟨t, rfl⟩
  | susp k t => exact .inr ⟨k, t, rfl⟩
  | done t | brk t | ret t => simp_all [Res.EndOf]

/-! ### What the engine keeps while it runs -/

/-- Every engine step short of `finish` keeps `P`. -/
structure EngineKeeps (P : State → Prop) : Prop where
  pass : ∀ s d, P s → P (s.pass d)
  setDrive : ∀ s l, P s → P (s.setDrive l)
  tick : ∀ s, P s → P s.tick
  run : ∀ s a, P s → P (Action.run a s)

/-- `P` holds where a stretch ended short of `finish`, a host access is due where it is suspended, and a
`finish` was made in a state of `P`. -/
def Res.Within (P : State → Prop) : Res → Prop
  | .done s | .brk s | .ret s => P s
  | .susp _ s => P s ∧ s.due = true
  | .fin s => ∃ t c, P t ∧ s = t.finish c

section
variable {P : State → Prop}

theorem waitUs_within (hP : EngineKeeps P) (d : Nat) {s : State} (h : P s) : (waitUs d s).Within P := by
  unfold waitUs
  split
  · exact ⟨h, ‹_›⟩
  · split
    · exact hP.pass _ _ h
    · split
      · split
        · exact ⟨hP.pass _ _ h, ‹_›⟩
        · exact hP.pass _ _ (hP.tick _ (hP.pass _ _ h))
      · exact hP.pass _ _ (hP.tick _ h)

theorem Res.andThen_within {r : Res} {b : Stmt} {f : State → Res} (hr : r.Within P)
    (hf : ∀ s, P s → (f s).Within P) : (r.andThen b f).Within P := by
  cases r with
  | done s => exact hf s hr
  | susp k s | brk s | ret s | fin s => exact hr

theorem Res.looped_within {r : Res} {n : Nat} {b : Stmt} {f : State → Res} (hr : r.Within P)
    (hf : ∀ s, P s → (f s).Within P) : (r.looped n b f).Within P := by
  cases r with
  | done s => exact hf s hr
  | susp k s | brk s | ret s | fin s => exact hr

theorem iterate_within {f : State → Res} {b : Stmt} (hf : ∀ s, P s → (f s).Within P) (n : Nat) {s : State}
    (h : P s) : (iterate f b n s).Within P := by
  induction n generalizing s with
  | zero => exact h
  | succ n ih => exact Res.looped_within (hf s h) fun _ => ih

theorem Res.returned_within {r : Res} (hr : r.Within P) : r.returned.Within P := by
  cases r <;> exact hr

theorem driveAll_within (hP : EngineKeeps P) (gs : List Segment) {s : State} (h : P s) : (driveAll gs s).Within P := by
  induction gs generalizing s with
  | nil => exact h
  | cons g gs ih =>
    rw [driveAll]
    split
    · exact ⟨h, ‹_›⟩
    · exact Res.andThen_within (waitUs_within hP _ (hP.setDrive _ _ h)) fun _ => ih

/-- What every engine step keeps holds wherever a run of pseudocode leaves off, and a run is suspended only where
a host access is due. -/
theorem eval_within (hP : EngineKeeps P) (c : Stmt) {s : State} (h : P s) : (eval c s).Within P := by
  induction c generalizing s with
  | skip | brk | ret => exact h
  | act a =>
    rw [eval, atomic]
    split
    · exact ⟨h, ‹_›⟩
    · exact hP.run _ a (hP.tick _ h)
  | delay d => exact waitUs_within hP _ h
  | drives gs => exact driveAll_within hP _ h
  | send src => exact driveAll_within hP _ h
  | seq a b iha ihb => exact Res.andThen_within (iha h) fun _ => ihb
  | ite c a b iha ihb =>
    rw [eval]
    split
    · exact iha h
    · exact ihb h
  | loop n b ih => exact iterate_within (fun _ => ih) _ h
  | iter a n b iha ihb => exact Res.looped_within (iha h) fun _ => iterate_within (fun _ => ihb) n
  | proc b ih => exact Res.returned_within (ih h)
  | finish f =>
    rw [eval]
    split
    · exact ⟨h, ‹_›⟩
    · exact ⟨_, _, hP.tick _ h, rfl⟩

end

/-! ### The running operation -/

/-- The operation `i` runs: ACTIVE = 1, DONE = 0, CMD holds its code, and it is OP. -/
structure Serving (i : Instr) (s : State) : Prop where
  active : s.status.active = true
  notDone : s.status.done = false
  cmd : s.cmd = encode i
  op : s.seq.op = some i

theorem accept_serving (i : Instr) (prog : Stmt) (s : State) : Serving i (s.accept (encode i) (some i) prog) :=
  ⟨rfl, rfl, rfl, rfl⟩

theorem Action.done_run (a : Action) (s : State) : (a.run s).status.done = s.status.done := by
  cases a
  case orBit | crcAppend | appendFrameCrc => simp [Action.run]
  all_goals rfl

theorem Action.cmd_run (a : Action) (s : State) : (a.run s).cmd = s.cmd := by
  cases a
  case orBit | crcAppend | appendFrameCrc => simp [Action.run]
  all_goals rfl

theorem Action.op_run (a : Action) (s : State) : (a.run s).seq.op = s.seq.op := by
  cases a
  case orBit | crcAppend | appendFrameCrc => simp [Action.run]
  all_goals rfl

theorem engineKeeps_serving (i : Instr) : EngineKeeps (Serving i) where
  pass _ _ h := ⟨h.active, h.notDone, h.cmd, h.op⟩
  setDrive _ _ h := ⟨h.active, h.notDone, h.cmd, h.op⟩
  tick _ h := ⟨by simp [h.active], by simp [h.notDone], by simp [h.cmd], by simp [h.op]⟩
  run s a h := ⟨(a.run_active s).trans h.active, (a.done_run s).trans h.notDone, (a.cmd_run s).trans h.cmd,
    (a.op_run s).trans h.op⟩

/-- Settles O8: the operation's pseudocode only ends in `finish` or is suspended, and up to there every engine
step keeps it the running one. -/
theorem operationFinishesOrWaits : Obligations.OperationFinishesOrWaits := by
  intro i s t hactive hreset hexec
  rw [exec_eq_command, command_accepted _ _ _ hreset hactive] at hexec
  cases hexec
  have hrun := eval_within (engineKeeps_serving i) (opProgram s.params.val i)
    (accept_serving i (opProgram s.params.val i) s)
  obtain ⟨u, hu⟩ | ⟨k, u, hu⟩ := eval_opProgram s.params.val i
    (s.accept (encode i) (some i) (opProgram s.params.val i))
  · rw [hu] at hrun ⊢
    obtain ⟨v, c, hv, rfl⟩ := hrun
    exact ⟨hv.cmd, .inl ⟨rfl, rfl, rfl⟩⟩
  · rw [hu] at hrun ⊢
    obtain ⟨hserving, hdue⟩ := hrun
    exact ⟨hserving.cmd, .inr ⟨hserving.active, hserving.notDone, hserving.op, hdue⟩⟩

end Sys2Proof.Machine
end

section
/-! O6, O10, O11, O19, O20, O23, O24, O60. What a step can do is said once, as a case per rule of the host bus and of
time; what the engine keeps while it runs is carried to where it leaves off; the clock, the arguments and the
invariant are read off these. -/

namespace Sys2Proof.Machine

/-! ### The step, case by case -/

theorem State.due_of_host_cons {s : State} {e : HostEvent} {rest : List HostEvent} (h : s.host = e :: rest) :
    s.due = (e.wait == 0 && e.steps == 0) := by
  simp only [State.due, h]

/-- A due access takes place, taken off the host's list. -/
theorem step_of_due {s : State} {e : HostEvent} {rest : List HostEvent} (h : s.host = e :: rest)
    (hd : s.due = true) : step s = perform e.access { s with host := rest } := by
  simp [step, h, hd]

/-- With no access due, the machine goes on by itself. -/
theorem step_of_not_due {s : State} (hd : s.due = false) : step s = .next s.advance := by
  unfold step
  split
  · rfl
  · simp [hd]

theorem step_cases {s t : State} (h : step s = .next t) :
    (s.due = false ∧ t = s.advance) ∨
    (s.due = true ∧ ∃ e rest, s.host = e :: rest ∧ perform e.access { s with host := rest } = .next t) := by
  cases hd : s.due with
  | false =>
    rw [step_of_not_due hd] at h
    cases h
    exact .inl ⟨rfl, rfl⟩
  | true =>
    cases hh : s.host with
    | nil => simp [State.due_of_host_nil s hh] at hd
    | cons e rest => exact .inr ⟨rfl, e, rest, rfl, step_of_due hh hd ▸ h⟩

/-- What a host access can lead to: the state after it, for each kind of access. -/
inductive Performed (s : State) : HostAccess → State → Prop
  | read (a : Addr) : Performed s (.bus (.read a)) (s.hostRead a)
  | write (a : Addr) (v : Byte) (ha : a ≠ 0x000) : Performed s (.bus (.write a v)) (s.hostWrite a v)
  | command (w code : Byte) (op : Option Instr) (prog : Stmt) :
    Performed s (.bus (.write 0x000 w)) (command code op prog s)
  | poll (p : Pace) : Performed s (.waitDone p) (s.poll p)
  | assertReset : Performed s .resetAssert s.assertReset
  | releaseReset : Performed s .resetRelease s.releaseReset

/-- A CMD write is a command, whatever the byte names. -/
theorem writeCmd_eq_command (w : Byte) (s : State) :
    ∃ code op prog, writeCmd w s = .next (command code op prog s) := by
  unfold writeCmd
  split
  · exact ⟨_, _, _, exec_eq_command _ s⟩
  · exact ⟨_, _, _, rfl⟩

theorem performed_of_perform {a : HostAccess} {s t : State} (h : perform a s = .next t) : Performed s a t := by
  cases a with
  | bus b =>
    cases b with
    | read a => cases h; exact .read a
    | write a v =>
      rw [perform] at h
      split at h
      · obtain ⟨code, op, prog, hc⟩ := writeCmd_eq_command v s
        subst a
        rw [hc] at h
        cases h
        exact .command v code op prog
      · cases h; exact .write a v ‹_›
  | waitDone p => cases h; exact .poll p
  | resetAssert => cases h; exact .assertReset
  | resetRelease => cases h; exact .releaseReset

/-- A command is ignored in reset, rejected while an operation runs, and accepted otherwise. -/
theorem command_cases (code : Byte) (op : Option Instr) (prog : Stmt) (s : State) :
    command code op prog s = s ∨
    (s.status.active = true ∧ s.resetIn = false ∧ command code op prog s = s.rejectCmd) ∨
    (s.status.active = false ∧ s.resetIn = false ∧ command code op prog s = (s.accept code op prog).runEngine) := by
  unfold command
  cases hr : s.resetIn <;> cases ha : s.status.active <;> simp

/-- Without a due access, a running operation runs on, and otherwise time passes. -/
theorem State.advance_cases (s : State) :
    (s.status.active = true ∧ s.resetIn = false ∧ s.advance = s.runEngine) ∨
    ((s.status.active = false ∨ s.resetIn = true) ∧ s.advance = s.idle) := by
  unfold State.advance
  cases hr : s.resetIn <;> cases ha : s.status.active <;> simp

theorem State.advance_of_inactive {s : State} (h : s.status.active = false) : s.advance = s.idle := by
  simp [State.advance, h]

theorem State.idle_of_host_nil {s : State} (h : s.host = []) : s.idle = s := by
  simp only [State.idle, h]

/-- The wait of the next access passes, and the access is then due (log 12). -/
theorem State.idle_of_released {s : State} {e : HostEvent} {rest : List HostEvent} (h : s.host = e :: rest)
    (hr : s.resetIn = false) : s.idle = { s.pass e.wait with host := ⟨0, 0, e.access⟩ :: rest } := by
  simp [State.idle, h, hr]

/-- In reset, the wait of the next access passes for the device only (log 10). -/
theorem State.idle_of_inReset {s : State} {e : HostEvent} {rest : List HostEvent} (h : s.host = e :: rest)
    (hr : s.resetIn = true) : s.idle = { s.passInReset e.wait with host := ⟨0, 0, e.access⟩ :: rest } := by
  simp [State.idle, h, hr]

/-- Settles O6: a due write to CMD is `writeCmd`, which dispatches on the decoded byte. -/
theorem stepRunsDecodedOperation : Obligations.StepRunsDecodedOperation := by
  intro s w i rest _ hhost hdecode
  have hdue : s.due = true := State.due_of_host_cons hhost
  rw [step_of_due hhost hdue]
  simp [perform, writeCmd, hdecode]

/-- Settles O60: an inactive machine with no due access takes the idle step, in or out of reset. -/
theorem idleStepLetsTheWaitPass : Obligations.IdleStepLetsTheWaitPass := by
  intro s hactive
  refine ⟨fun hnil => ?_, fun e rest hhost hlater => ?_⟩
  · rw [step_of_not_due (State.due_of_host_nil s hnil), State.advance_of_inactive hactive,
      State.idle_of_host_nil hnil]
  · have hdue : s.due = false := by
      rw [State.due_of_host_cons hhost]
      simp
      omega
    rw [step_of_not_due hdue, State.advance_of_inactive hactive]
    exact ⟨fun hr => congrArg _ (State.idle_of_released hhost hr),
      fun hr => congrArg _ (State.idle_of_inReset hhost hr)⟩

/-! ### What the engine keeps up to where it leaves off -/

/-- What every engine step and `finish` keep, and what does not look at the sequencer, the engine's run keeps. -/
theorem runEngine_keeps {P : State → Prop} (hP : EngineKeeps P) (hfin : ∀ s c, P s → P (State.finish c s))
    (hseq : ∀ s q, P s → P (State.withSeq q s)) {s : State} (h : P s) : P s.runEngine := by
  have hw := eval_within hP s.seq.code h
  rw [State.runEngine]
  cases hr : eval s.seq.code s with
  | done t | brk t | ret t =>
    rw [hr] at hw
    exact hseq _ _ hw
  | susp k t =>
    rw [hr] at hw
    exact hseq _ _ hw.1
  | fin t =>
    rw [hr] at hw
    obtain ⟨u, c, hu, rfl⟩ := hw
    exact hfin u c hu

/-! ### The time base -/

theorem Action.now_run (a : Action) (s : State) : (a.run s).now = s.now := by
  cases a
  case orBit | crcAppend | appendFrameCrc => simp [Action.run]
  all_goals rfl

theorem engineKeeps_now_ge (n : Nat) : EngineKeeps fun s => n ≤ s.now where
  pass _ _ h := Nat.le_add_right_of_le h
  setDrive _ _ h := h
  tick s h := by rwa [s.tick_now]
  run s a h := by rwa [a.now_run s]

theorem runEngine_now_ge (s : State) : s.now ≤ s.runEngine.now :=
  runEngine_keeps (engineKeeps_now_ge s.now) (fun _ _ h => h) (fun _ _ h => h) (Nat.le_refl _)

theorem command_now_ge (code : Byte) (op : Option Instr) (prog : Stmt) (s : State) :
    s.now ≤ (command code op prog s).now := by
  obtain h | ⟨-, -, h⟩ | ⟨-, -, h⟩ := command_cases code op prog s
  · rw [h]
  · rw [h, State.rejectCmd_now]
  · rw [h]
    exact runEngine_now_ge (s.accept code op prog)

theorem State.idle_now_ge (s : State) : s.now ≤ s.idle.now := by
  cases hh : s.host with
  | nil => rw [State.idle_of_host_nil hh]
  | cons e rest =>
    cases hr : s.resetIn with
    | false => exact State.idle_of_released hh hr ▸ Nat.le_add_right _ _
    | true => exact State.idle_of_inReset hh hr ▸ Nat.le_refl _

theorem State.advance_now_ge (s : State) : s.now ≤ s.advance.now := by
  obtain ⟨-, -, h⟩ | ⟨-, h⟩ := s.advance_cases
  · exact h ▸ runEngine_now_ge s
  · exact h ▸ s.idle_now_ge

theorem State.hostRead_now (a : Addr) (s : State) : (s.hostRead a).now = s.now := by
  obtain ⟨-, h⟩ | ⟨-, h⟩ := s.hostRead_cases a <;> rw [h]

theorem State.hostWrite_now (a : Addr) (v : Byte) (s : State) : (s.hostWrite a v).now = s.now := by
  obtain ⟨_, _, _, _, _, _, h⟩ := s.hostWrite_eq a v
  rw [h]

/-- Only an assertion of reset sets `now` back. -/
theorem Performed.now_ge {s t : State} {a : HostAccess} (h : Performed s a t) (ha : a ≠ .resetAssert) :
    s.now ≤ t.now := by
  cases h with
  | read a => rw [State.hostRead_now]
  | write a v _ => rw [State.hostWrite_now]
  | command w code op prog => exact command_now_ge code op prog s
  | poll p => rw [State.poll_eq]
  | assertReset => exact absurd rfl ha
  | releaseReset => rw [State.releaseReset_now]

/-- Settles O10: neither an access short of a reset nor the engine nor an idle step sets `now` back. -/
theorem timeOnlyGrows : Obligations.TimeOnlyGrows := by
  intro s t hreset hstep
  obtain ⟨-, rfl⟩ | ⟨-, e, rest, hhost, hperform⟩ := step_cases hstep
  · exact s.advance_now_ge
  · exact (performed_of_perform hperform).now_ge (hreset e (by simp [hhost]))

/-! ### The arguments -/

/-- What an operation only reads: the argument registers, the parameters and the device's waveform. -/
def State.inputs (s : State) : Byte × Bool × Byte × Word × Word × WfParams × List Pulse :=
  (s.argLen, s.argLevel, s.argRspSize, s.argExecDelay, s.argExecTimeout, s.params, s.dev)

theorem State.inputs_eq_iff (s t : State) : t.inputs = s.inputs ↔
    t.argLen = s.argLen ∧ t.argLevel = s.argLevel ∧ t.argRspSize = s.argRspSize ∧
    t.argExecDelay = s.argExecDelay ∧ t.argExecTimeout = s.argExecTimeout ∧ t.params = s.params ∧ t.dev = s.dev := by
  simp only [State.inputs, Prod.mk.injEq]

theorem Action.inputs_run (a : Action) (s : State) : (a.run s).inputs = s.inputs := by
  cases a
  case orBit | crcAppend | appendFrameCrc => simp [Action.run, State.inputs]
  all_goals rfl

theorem engineKeeps_inputs (x : Byte × Bool × Byte × Word × Word × WfParams × List Pulse) :
    EngineKeeps fun s => s.inputs = x where
  pass _ _ h := h
  setDrive _ _ h := h
  tick s h := by simpa [State.inputs] using h
  run s a h := (a.inputs_run s).trans h

theorem runEngine_inputs (s : State) : s.runEngine.inputs = s.inputs :=
  runEngine_keeps (engineKeeps_inputs s.inputs) (fun _ _ h => h) (fun _ _ h => h) rfl

theorem command_inputs (code : Byte) (op : Option Instr) (prog : Stmt) (s : State) :
    (command code op prog s).inputs = s.inputs := by
  obtain h | ⟨-, -, h⟩ | ⟨-, -, h⟩ := command_cases code op prog s
  · rw [h]
  · rw [h]
    rfl
  · rw [h]
    exact runEngine_inputs (s.accept code op prog)

theorem State.hostRead_inputs (a : Addr) (s : State) : (s.hostRead a).inputs = s.inputs := by
  obtain ⟨-, h⟩ | ⟨-, h⟩ := s.hostRead_cases a <;> rw [h] <;> rfl

/-- While an operation runs, no access but an assertion of reset changes what the operation reads. -/
theorem Performed.inputs_of_active {s t : State} {a : HostAccess} (h : Performed s a t)
    (hactive : s.status.active = true) (ha : a ≠ .resetAssert) : t.inputs = s.inputs := by
  cases h with
  | read a => exact s.hostRead_inputs a
  | write a v _ => rw [State.hostWrite_ignored a v (.inl hactive)]
  | command w code op prog => exact command_inputs code op prog s
  | poll p =>
    rw [State.poll_eq]
    rfl
  | assertReset => exact absurd rfl ha
  | releaseReset => rfl

/-- Settles O11: every command keeps the inputs, and so does, while an operation runs, every access short of a reset
and the engine going on. -/
theorem operationsOnlyReadArguments : Obligations.OperationsOnlyReadArguments := by
  refine ⟨fun i s t hexec => ?_, fun s t hactive hreset hno hstep => ?_⟩
  · rw [exec_eq_command] at hexec
    cases hexec
    exact (State.inputs_eq_iff s _).mp (command_inputs _ _ _ s)
  · refine (State.inputs_eq_iff s t).mp ?_
    obtain ⟨-, rfl⟩ | ⟨-, e, rest, hhost, hperform⟩ := step_cases hstep
    · have hrun : s.advance = s.runEngine := by simp [State.advance, hactive, hreset]
      rw [hrun, runEngine_inputs]
    · exact (performed_of_perform hperform).inputs_of_active hactive (hno e (by simp [hhost]))

/-! ### The codes a host reads, and the reset values -/

theorem Status.toByte_bits (t : Status) :
    t.toByte.getLsbD 0 = t.active ∧ t.toByte.getLsbD 1 = t.done ∧ t.toByte.getLsbD 2 = t.sessionLost ∧
    t.toByte.getLsbD 3 = t.cmdRejected ∧ t.toByte.extractLsb' 4 4 = 0x0#4 := by
  obtain ⟨active, done, lost, rejected⟩ := t
  revert active done lost rejected
  decide

theorem State.wireByte_bits (s : State) :
    s.wireByte.getLsbD 0 = (s.line == .high) ∧ s.wireByte.getLsbD 1 = s.driveLow ∧
    s.wireByte.extractLsb' 2 6 = 0x00#6 := by
  unfold State.wireByte
  generalize (s.line == .high) = line
  generalize s.driveLow = drive
  revert line drive
  decide

/-- Settles O19: the bits are checked for every value of the stored bits, the codes one by one. -/
theorem registerCodes : Obligations.RegisterCodes := by
  refine ⟨Status.toByte_bits, State.wireByte_bits, ?_, rfl, rfl, rfl, ?_, rfl, rfl, rfl, rfl, rfl, rfl, rfl, rfl, rfl,
    rfl, rfl, rfl, rfl, rfl⟩
  · intro c
    cases c <;> rfl
  · intro c
    cases c <;> rfl

/-- Settles O20, field by field. -/
theorem resetValues : Obligations.ResetValues :=
  ⟨rfl, rfl, rfl, rfl, rfl, rfl, rfl, rfl, rfl, rfl, rfl, rfl, Memory.read_nil, Memory.read_nil, rfl, rfl⟩

/-! ### The invariant -/

/-- Settles O23: the buffers and the waveform are empty, and reset is released. -/
theorem invariantAtReset : Obligations.InvariantAtReset where
  txWf := rfl
  rxWf := rfl
  txWithin := rfl
  rxWithin := rfl
  notBoth := by simp [State.reset]
  fresh := fun _ _ => ⟨rfl, rfl⟩
  idleSeq := fun _ => rfl
  traceCanonical := rfl
  traceCovers := rfl
  inReset := by simp [State.reset]

/-- The invariant does not look at the device, nor at the host's accesses and reads. -/
theorem Inv.withEnvironment {s : State} (h : Inv s) (dev : List Pulse) (host : List HostEvent) (reads : List Byte)
    (n : Nat) : Inv { s with dev := dev, host := host, reads := reads, freeCount := n } where
  txWf := h.txWf
  rxWf := h.rxWf
  txWithin := h.txWithin
  rxWithin := h.rxWithin
  notBoth := h.notBoth
  fresh := h.fresh
  idleSeq := h.idleSeq
  traceCanonical := h.traceCanonical
  traceCovers := h.traceCovers
  inReset := fun hr =>
    congrArg (fun u : State => { u with dev := dev, host := host, reads := reads, freeCount := n }) (h.inReset hr)

/-- The invariant goes over to a state with reset released in which the status, the sequencer, the parameters and
RX are the same, as far as TX and the waveform are good. -/
theorem Inv.of_released {s t : State} (h : Inv s) (hreset : t.resetIn = false) (hstatus : t.status = s.status)
    (hseq : t.seq = s.seq) (hparams : t.params = s.params) (hrx : t.rx = s.rx)
    (htx : t.tx.wf = true ∧ t.tx.within s.params.val.txCapacity = true)
    (htrace : canonicalTrace t.trace = true ∧ traceLen t.trace = t.now) : Inv t where
  txWf := htx.1
  rxWf := by rw [hrx]; exact h.rxWf
  txWithin := by rw [hparams]; exact htx.2
  rxWithin := by rw [hparams, hrx]; exact h.rxWithin
  notBoth := by rw [hstatus]; exact h.notBoth
  fresh := by rw [hstatus]; exact h.fresh
  idleSeq := by rw [hstatus, hseq]; exact h.idleSeq
  traceCanonical := htrace.1
  traceCovers := htrace.2
  inReset := by simp [hreset]

theorem Inv.pass {s : State} (h : Inv s) (hreset : s.resetIn = false) (d : Nat) : Inv (s.pass d) :=
  h.of_released hreset rfl rfl rfl rfl ⟨h.txWf, h.txWithin⟩
    ⟨canonicalTrace_extendTrace _ _ _ h.traceCanonical,
      by rw [State.pass_trace, State.pass_now, traceLen_extendTrace, h.traceCovers]⟩

theorem Inv.idle {s : State} (h : Inv s) : Inv s.idle := by
  cases hh : s.host with
  | nil => rwa [State.idle_of_host_nil hh]
  | cons e rest =>
    cases hr : s.resetIn with
    | false => exact State.idle_of_released hh hr ▸ (h.pass hr e.wait).withEnvironment _ _ _ _
    | true => exact State.idle_of_inReset hh hr ▸ h.withEnvironment _ _ _ _

/-- The invariant holds where a stretch of pseudocode of a running operation leaves off. -/
theorem Res.Kept.inv_state {r : Res} (h : r.Kept) : Inv r.state := by
  cases r with
  | done t | brk t | ret t => exact (Running.updSeq h fun q => { q with code := .skip }).inv
  | susp k t => exact (Running.updSeq h fun q => { q with code := k }).inv
  | fin t => exact h

theorem Running.runEngine {s : State} (h : Running s) : Inv s.runEngine := (eval_kept s.seq.code s h).inv_state

theorem Inv.advance {s : State} (h : Inv s) : Inv s.advance := by
  obtain ⟨hactive, hreset, he⟩ | ⟨-, he⟩ := s.advance_cases
  · exact he ▸ Running.runEngine ⟨hactive, hreset, h⟩
  · exact he ▸ h.idle

/-- An accepted operation runs, whatever ran before. -/
theorem Inv.accept {s : State} (h : Inv s) (hreset : s.resetIn = false) (code : Byte) (op : Option Instr)
    (prog : Stmt) : Running (s.accept code op prog) :=
  running_of rfl rfl hreset h.txWf h.rxWf h.txWithin h.rxWithin h.traceCanonical h.traceCovers

theorem Running.rejectCmd {s : State} (h : Running s) : Running s.rejectCmd :=
  running_of h.active h.done h.live h.inv.txWf h.inv.rxWf h.inv.txWithin h.inv.rxWithin h.inv.traceCanonical
    h.inv.traceCovers

theorem Inv.command {s : State} (h : Inv s) (code : Byte) (op : Option Instr) (prog : Stmt) :
    Inv (command code op prog s) := by
  obtain he | ⟨hactive, hreset, he⟩ | ⟨-, hreset, he⟩ := command_cases code op prog s
  · rwa [he]
  · exact he ▸ (Running.rejectCmd ⟨hactive, hreset, h⟩).inv
  · exact he ▸ (h.accept hreset code op prog).runEngine

theorem Inv.hostRead {s : State} (h : Inv s) (a : Addr) : Inv (s.hostRead a) := by
  obtain ⟨-, he⟩ | ⟨-, he⟩ := s.hostRead_cases a
  · exact he ▸ h.withEnvironment _ _ _ _
  · exact he ▸ h.withEnvironment _ _ _ _

theorem Inv.poll {s : State} (h : Inv s) (p : Pace) : Inv (s.poll p) :=
  s.poll_eq p ▸ h.withEnvironment _ _ _ _

/-- TX after a host write short of CMD: as it was, or with one byte written. -/
theorem State.hostWrite_tx (a : Addr) (v : Byte) (s : State) :
    (s.hostWrite a v).tx = s.tx ∨ ∃ i, (s.hostWrite a v).tx = (s.writeTx i v).tx := by
  unfold State.hostWrite
  split
  · exact .inl rfl
  · split
    case h_8 =>
      split
      · exact .inr ⟨_, rfl⟩
      · exact .inl rfl
    all_goals exact .inl rfl

theorem Inv.hostWrite {s : State} (h : Inv s) (a : Addr) (v : Byte) : Inv (s.hostWrite a v) := by
  cases hreset : s.resetIn with
  | true => rwa [State.hostWrite_ignored a v (.inr hreset)]
  | false =>
    have htx : (s.hostWrite a v).tx.wf = true ∧ (s.hostWrite a v).tx.within s.params.val.txCapacity = true := by
      obtain he | ⟨i, he⟩ := s.hostWrite_tx a v
      · exact he ▸ ⟨h.txWf, h.txWithin⟩
      · exact he ▸ State.writeTx_keeps i v s h.txWf h.txWithin
    obtain ⟨_, _, _, _, _, _, he⟩ := s.hostWrite_eq a v
    rw [he] at htx ⊢
    exact h.of_released hreset rfl rfl rfl rfl htx ⟨h.traceCanonical, h.traceCovers⟩

theorem inv_assertReset (s : State) : Inv s.assertReset where
  txWf := rfl
  rxWf := rfl
  txWithin := rfl
  rxWithin := rfl
  notBoth := by simp [State.assertReset, State.reset]
  fresh := fun _ _ => ⟨rfl, rfl⟩
  idleSeq := fun _ => rfl
  traceCanonical := rfl
  traceCovers := rfl
  inReset := fun _ => rfl

theorem Inv.releaseReset {s : State} (h : Inv s) : Inv s.releaseReset :=
  h.of_released rfl rfl rfl rfl rfl ⟨h.txWf, h.txWithin⟩ ⟨h.traceCanonical, h.traceCovers⟩

theorem Performed.inv {s t : State} {a : HostAccess} (h : Performed s a t) (hs : Inv s) : Inv t := by
  cases h with
  | read a => exact hs.hostRead a
  | write a v _ => exact hs.hostWrite a v
  | command w code op prog => exact hs.command code op prog
  | poll p => exact hs.poll p
  | assertReset => exact inv_assertReset s
  | releaseReset => exact hs.releaseReset

/-- Settles O24: each host access, the engine's run and the passing of time keep the invariant. -/
theorem stepKeepsInvariant : Obligations.StepKeepsInvariant := by
  intro s t hinv hstep
  obtain ⟨-, rfl⟩ | ⟨-, e, rest, -, hperform⟩ := step_cases hstep
  · exact hinv.advance
  · exact (performed_of_perform hperform).inv (hinv.withEnvironment s.dev rest s.reads s.freeCount)

end Sys2Proof.Machine
end

section
/-! O9. The end of a running operation is read off the run of the rest of its pseudocode, with no host access to come
and with what the engine does not look at removed (`fate_of_active`). The engine going on does not change it, since a
suspended run goes on as the undisturbed one does, and nor does an access that leaves the observed state as it is. -/

namespace Sys2Proof.Machine

/-! ### The host's records, which the engine leaves alone -/

/-- What the host has read, CMD_REJECTED and the reset input. -/
def State.records (s : State) : List Byte × Nat × Bool × Bool :=
  (s.reads, s.freeCount, s.status.cmdRejected, s.resetIn)

theorem Action.host_run (a : Action) (s : State) : (a.run s).host = s.host := by
  cases a
  case orBit | crcAppend | appendFrameCrc => simp [Action.run]
  all_goals rfl

theorem Action.records_run (a : Action) (s : State) : (a.run s).records = s.records := by
  cases a
  case orBit | crcAppend | appendFrameCrc => simp [Action.run, State.records]
  all_goals rfl

/-- With no access to come, the engine makes none, and keeps the host's records. -/
theorem engineKeeps_records (x : List Byte × Nat × Bool × Bool) :
    EngineKeeps fun s => s.host = [] ∧ s.records = x where
  pass s d h := ⟨s.pass_host_nil d h.1, h.2⟩
  setDrive _ _ h := h
  tick s h := by rwa [s.tick_of_host_nil h.1]
  run s a h := ⟨(a.host_run s).trans h.1, (a.records_run s).trans h.2⟩

/-! ### What becomes of a running operation -/

/-- A state with no record of the host is its blind one, but for the stored position. -/
theorem State.blind_of_records {s : State} {r : Bool} (h : s.records = ([], 0, false, r)) :
    s.blind = s.withSeq { s.seq with code := .skip } := by
  simp only [State.records, Prod.mk.injEq] at h
  obtain ⟨hreads, hfree, hrejected, -⟩ := h
  simp only [State.blind, State.withSeq, ← hreads, ← hfree, ← hrejected]

/-- The place where a run leaves off gives the stored position, so that nothing else of an unwatched run is lost to
`blind`. -/
theorem Res.state_map_blind {r : Res} {x : Bool}
    (h : r.Within fun s => s.host = [] ∧ s.records = ([], 0, false, x)) : (r.map State.blind).state = r.state := by
  cases r with
  | done s | brk s | ret s =>
    obtain ⟨-, hs⟩ := h
    rw [Res.map, State.blind_of_records hs]
    rfl
  | susp k s =>
    obtain ⟨⟨-, hs⟩, -⟩ := h
    rw [Res.map, State.blind_of_records hs]
    rfl
  | fin s =>
    obtain ⟨t, c, ⟨-, ht⟩, rfl⟩ := h
    rw [Res.map, State.blind_of_records (s := t.finish c) ht]
    rfl

theorem fate_of_inactive {s : State} (h : s.status.active = false) : fate s = observed s := by
  simp [fate, h]

theorem fate_of_active {s : State} (h : s.status.active = true) :
    fate s = (eval s.seq.code s.quiet.blind).state := by
  have hw := eval_within (engineKeeps_records ([], 0, false, s.resetIn)) s.seq.code
    (s := observed s) ⟨rfl, rfl⟩
  calc fate s = (eval s.seq.code (observed s)).state := by rw [fate, if_pos h]; rfl
    _ = ((eval s.seq.code (observed s)).map State.blind).state := (Res.state_map_blind hw).symm
    _ = (eval s.seq.code (observed s).blind).state := by rw [eval_blind]

/-- The fate is the engine's view: an access that leaves the observed state leaves it. -/
theorem fate_congr {s t : State} (h : observed t = observed s) : fate t = fate s := by
  have hactive : t.status.active = s.status.active := congrArg (·.status.active) h
  rw [fate, fate, h, hactive]

/-- What the engine does up to the next due access does not change what becomes of the operation. -/
theorem fate_runEngine {s : State} (h : s.status.active = true) : fate s.runEngine = fate s := by
  have hlive := eval_live s.seq.code s h
  have hundisturbed : eval s.seq.code s.quiet.blind = (eval s.seq.code s).resume.map State.blind := by
    rw [eval_blind, eval_resume]
  rw [fate_of_active h, hundisturbed, State.runEngine]
  cases hr : eval s.seq.code s with
  | done t | brk t | ret t =>
    rw [hr] at hlive
    exact fate_of_active hlive
  | susp k t =>
    rw [hr] at hlive
    rw [Res.resume, ← eval_blind]
    exact fate_of_active hlive
  | fin t =>
    rw [hr] at hlive
    obtain ⟨hactive, hseq⟩ := hlive
    rw [Res.state, fate_of_inactive hactive, observed, Res.resume, Res.map, Res.state, State.blind]
    simp [State.quiet, hseq]
    rfl

theorem State.observed_hostRead (a : Addr) (s : State) : observed (s.hostRead a) = observed s := by
  obtain ⟨-, h⟩ | ⟨-, h⟩ := s.hostRead_cases a <;> rw [h] <;> rfl

/-- While an operation runs, no access but an assertion of reset changes what the engine sees. -/
theorem Performed.observed_of_active {s t : State} {a : HostAccess} (h : Performed s a t)
    (hactive : s.status.active = true) (hreset : s.resetIn = false) (ha : a ≠ .resetAssert) :
    observed t = observed s := by
  cases h with
  | read a => exact s.observed_hostRead a
  | write a v _ => rw [State.hostWrite_ignored a v (.inl hactive)]
  | command w code op prog =>
    obtain h | ⟨-, -, h⟩ | ⟨hidle, -, -⟩ := command_cases code op prog s
    · rw [h]
    · rw [h]
      rfl
    · simp [hactive] at hidle
  | poll p =>
    rw [State.poll_eq]
    rfl
  | assertReset => exact absurd rfl ha
  | releaseReset => rw [State.releaseReset, ← hreset]

/-! ### An accepted operation with no access to come -/

theorem exec_of_idle (i : Instr) {s : State} (hactive : s.status.active = false) (hreset : s.resetIn = false) :
    exec i s = .next (s.accept (encode i) (some i) (opProgram s.params.val i)).runEngine := by
  rw [exec_eq_command, command_accepted _ _ _ hreset hactive]
  rfl

/-- An operation makes no host access, and clears CMD_REJECTED of the host's records only. -/
theorem exec_records {i : Instr} {s t : State} (hready : Ready s) (hexec : exec i s = .next t) :
    t.host = [] ∧ t.records = (s.reads, s.freeCount, false, false) := by
  obtain ⟨hactive, hreset, hhost⟩ := hready
  rw [exec_of_idle i hactive hreset] at hexec
  cases hexec
  exact runEngine_keeps (engineKeeps_records _) (fun _ _ h => h) (fun _ _ h => h)
    ⟨hhost, by simp [State.records, hreset]⟩

/-- With no access to come, an operation runs to its end. -/
theorem exec_finishes {i : Instr} {s t : State} (hready : Ready s) (hexec : exec i s = .next t) :
    t.status.active = false := by
  obtain ⟨-, ⟨ht, -⟩ | ⟨-, -, -, hdue⟩⟩ := operationFinishesOrWaits i s t hready.1 hready.2.1 hexec
  · exact ht
  · simp [State.due_of_host_nil t (exec_records hready hexec).1] at hdue

/-- Settles O9: accepting an operation leaves what the engine sees of the host's accesses to come out, and from there
on neither the engine going on nor an access short of a reset changes the fate. -/
theorem runningOperationUndisturbed : Obligations.RunningOperationUndisturbed := by
  refine ⟨fun i s t hactive hreset hexec => ?_, fun s t hactive hreset hno hstep => ?_⟩
  · have hquiet : exec i s.quiet = _ := exec_of_idle i hactive hreset
    have hready : Ready s.quiet := ⟨hactive, hreset, rfl⟩
    have hend := exec_finishes hready hquiet
    rw [exec_of_idle i hactive hreset] at hexec
    cases hexec
    refine ⟨_, hquiet, hend, ?_⟩
    rw [← fate_of_inactive hend, fate_runEngine rfl, fate_runEngine rfl]
    exact fate_congr rfl
  · obtain ⟨-, rfl⟩ | ⟨-, e, rest, hhost, hperform⟩ := step_cases hstep
    · obtain ⟨-, -, hgo⟩ | ⟨hidle, -⟩ := s.advance_cases
      · rw [hgo, fate_runEngine hactive]
      · simp [hactive, hreset] at hidle
    · exact fate_congr ((performed_of_perform hperform).observed_of_active hactive hreset (hno e (by simp [hhost])))

end Sys2Proof.Machine
end

section
/-! O14, O15, O16, O17, O18. The register space in two parts: the 15 registers as a list, and the two buffer windows.
What a host write does is said once, as writable or not; a step that makes a due access is that access. -/

namespace Sys2Proof.Machine

/-! ### A due access on the host bus -/

theorem step_read {s : State} {a : Addr} {rest : List HostEvent} (h : s.host = ⟨0, 0, .bus (.read a)⟩ :: rest) :
    step s = .next (State.hostRead a { s with host := rest }) :=
  step_of_due h (State.due_of_host_cons h)

theorem step_write {s : State} {a : Addr} {v : Byte} {rest : List HostEvent}
    (h : s.host = ⟨0, 0, .bus (.write a v)⟩ :: rest) (ha : a ≠ 0x000) :
    step s = .next (State.hostWrite a v { s with host := rest }) :=
  (step_of_due h (State.due_of_host_cons h)).trans (if_neg ha)

theorem step_poll {s : State} {p : Pace} {rest : List HostEvent} (h : s.host = ⟨0, 0, .waitDone p⟩ :: rest) :
    step s = .next (State.poll p { s with host := rest }) :=
  step_of_due h (State.due_of_host_cons h)

/-! ### The bytes of the register space -/

theorem State.reserved_iff (s : State) (a : Addr) : s.reserved a = true ↔
    (0x00F ≤ a.toNat ∧ a.toNat ≤ 0x0FF) ∨ (0x100 + s.params.val.txCapacity ≤ a.toNat ∧ a.toNat ≤ 0x1FF) ∨
      (0x200 + s.params.val.rxCapacity ≤ a.toNat ∧ a.toNat ≤ 0x2FF) ∨ 0x300 ≤ a.toNat := by
  unfold State.reserved
  dsimp only
  repeat' split
  all_goals simp
  all_goals omega

theorem State.stored_of_reserved {s : State} {a : Addr} (h : s.reserved a = true) : s.stored a = 0x00 :=
  if_pos h

/-- The registers, by address (20_memory.md R51). -/
def State.registers (s : State) : List Byte :=
  [s.cmd, s.status.toByte, s.result.toByte, s.argLen, bitAt 0 s.argLevel, s.argRspSize,
    loByte s.argExecDelay, hiByte s.argExecDelay, loByte s.argExecTimeout, hiByte s.argExecTimeout,
    loByte s.crcResult, hiByte s.crcResult, s.rxCount, s.commState.toByte, s.wireByte]

theorem State.stored_register (s : State) {a : Addr} (h : a.toNat < 0x00F) :
    s.stored a = s.registers[a.toNat]'h := by
  obtain ⟨n, rfl⟩ : ∃ n, a = BitVec.ofFin n := ⟨a.toFin, rfl⟩
  obtain ⟨n, hn⟩ := n
  change n < 0x00F at h
  interval_cases n <;> rfl

theorem capacity_bounds (p : WfParams) : p.val.txCapacity ≤ 255 ∧ 4 ≤ p.val.rxCapacity ∧ p.val.rxCapacity ≤ 254 := by
  have h := p.property
  simp only [Params.wf, Bool.and_eq_true, decide_eq_true_eq] at h
  omega

theorem State.stored_buffer {s : State} {a : Addr} (h : 0x00F ≤ a.toNat) (hr : s.reserved a = false) :
    s.stored a = if a.toNat < 0x200 then s.tx.read (a.toNat - 0x100) else s.rx.read (a.toNat - 0x200) := by
  rw [State.stored, if_neg (by simp [hr])]
  split
  case h_16 => rfl
  all_goals omega

/-- Past the registers there are the bytes of TX and RX below the capacities, and 0x00 (20_memory.md R53). -/
theorem State.stored_window (s : State) {a : Addr} (h : 0x00F ≤ a.toNat) :
    s.stored a =
      if 0x100 ≤ a.toNat ∧ a.toNat < 0x100 + s.params.val.txCapacity then s.tx.read (a.toNat - 0x100)
      else if 0x200 ≤ a.toNat ∧ a.toNat < 0x200 + s.params.val.rxCapacity then s.rx.read (a.toNat - 0x200)
      else 0x00 := by
  have hcap := capacity_bounds s.params
  by_cases hres : s.reserved a = true
  · rw [State.stored_of_reserved hres]
    rw [State.reserved_iff] at hres
    rw [if_neg (by omega), if_neg (by omega)]
  · rw [State.stored_buffer h (Bool.eq_false_iff.mpr hres)]
    rw [State.reserved_iff] at hres
    split
    · rw [if_pos (by omega)]
    · rw [if_neg (by omega), if_pos (by omega)]

/-- Settles O16: the registers one by one, and the windows. -/
theorem addressMap : Obligations.AddressMap := by
  intro s
  have hcap := capacity_bounds s.params
  refine ⟨rfl, rfl, rfl, rfl, rfl, rfl, rfl, rfl, rfl, rfl, rfl, rfl, rfl, rfl, rfl, fun a k ha hk => ?_,
    fun a k ha hk => ?_, fun a ha => ?_⟩
  · rw [s.stored_window (by omega), if_neg (c := 0x200 ≤ _ ∧ _) (by omega), ha, Nat.add_sub_cancel_left]
    simp
  · rw [s.stored_window (by omega), if_neg (by omega), ha, Nat.add_sub_cancel_left]
    simp
  · rw [s.stored_window (by omega), if_neg (by omega), if_neg (by omega)]

/-! ### Reads -/

theorem State.unspecified_iff (s : State) (a : Addr) : s.unspecified a = true ↔
    s.status.active = true ∧ a ≠ 0x001 ∧ a ≠ 0x00E ∧ s.reserved a = false := by
  simp [State.unspecified, and_assoc]

/-- Settles O15: a read returns a free byte where `unspecified` says so, and the stored one elsewhere; a due `wait` is
its poll. -/
theorem readsReturn : Obligations.ReadsReturn := by
  refine ⟨fun s a rest hhost => ?_, fun s p rest hhost => ?_⟩
  · rw [step_read hhost]
    obtain ⟨hfree, h⟩ | ⟨hfree, h⟩ := State.hostRead_cases a { s with host := rest }
    · obtain ⟨hactive, hstatus, hwire, hres⟩ : s.status.active = true ∧ a ≠ 0x001 ∧ a ≠ 0x00E ∧ s.reserved a = false :=
        (State.unspecified_iff _ a).mp hfree
      exact ⟨_, _, congrArg _ h, (absurd · hstatus), (absurd · hwire), by simp [hres], by simp [hactive],
        fun _ _ _ _ => ⟨rfl, rfl⟩, by rintro (h | h | h | h) <;> simp_all⟩
    · refine ⟨_, _, congrArg _ h, by rintro rfl; rfl, by rintro rfl; rfl, State.stored_of_reserved, fun _ => rfl,
        fun hactive hstatus hwire hres => ?_, fun _ => rfl⟩
      exact absurd ((State.unspecified_iff s a).mpr ⟨hactive, hstatus, hwire, hres⟩) (Bool.eq_false_iff.mp hfree)
  · rw [step_poll hhost, State.poll_eq]
    rfl

/-! ### Writes -/

/-- Settles O14: while ACTIVE = 1, a write short of CMD is ignored. -/
theorem writesWhileActiveIgnored : Obligations.WritesWhileActiveIgnored := by
  intro s a v rest hactive ha hhost
  rw [step_write hhost ha]
  exact congrArg _ (State.hostWrite_ignored a v (.inl hactive))

theorem loByte_withLo (w : Word) (v : Byte) : loByte (withLo w v) = v :=
  BitVec.extractLsb'_append_eq_right

theorem hiByte_withLo (w : Word) (v : Byte) : hiByte (withLo w v) = hiByte w :=
  BitVec.extractLsb'_append_eq_left

theorem loByte_withHi (w : Word) (v : Byte) : loByte (withHi w v) = loByte w :=
  BitVec.extractLsb'_append_eq_right

theorem hiByte_withHi (w : Word) (v : Byte) : hiByte (withHi w v) = v :=
  BitVec.extractLsb'_append_eq_left

theorem bitAt_zero_getElem (v : Byte) : bitAt 0 v[0] = v &&& 1#8 := by
  rw [BitVec.and_one_eq_setWidth_ofBool_getLsbD, BitVec.getLsbD_eq_getElem (by decide)]
  cases v[0] <;> rfl

/-- A register that the host can write, ARG_LEN to ARG_EXEC_TIMEOUT (20_memory.md R51). -/
abbrev ArgAddr (a : Addr) : Prop := 0x003 ≤ a.toNat ∧ a.toNat ≤ 0x009

/-- A TX byte below the capacity (20_memory.md R53). -/
abbrev State.TxAddr (s : State) (a : Addr) : Prop := 0x100 ≤ a.toNat ∧ a.toNat < 0x100 + s.params.val.txCapacity

/-- A write to an address that is not RW is ignored. -/
theorem State.hostWrite_of_not_writable {s : State} {a : Addr} (v : Byte) (harg : ¬ ArgAddr a) (htx : ¬ s.TxAddr a) :
    s.hostWrite a v = s := by
  unfold ArgAddr at harg
  unfold State.TxAddr at htx
  unfold State.hostWrite
  split
  · rfl
  · split
    case h_8 =>
      split
      next hwindow =>
        simp only [Bool.and_eq_true, decide_eq_true_eq] at hwindow
        rw [State.writeTx, if_neg (by omega)]
      next => rfl
    all_goals omega

/-- A write to an argument register of an idle engine sets the byte at its address among the registers, and no
buffer byte; bits 7:1 of ARG_LEVEL are not stored (10_state.md R27). -/
theorem State.hostWrite_argAddr {s : State} {a : Addr} (v : Byte) (hactive : s.status.active = false)
    (hreset : s.resetIn = false) (ha : ArgAddr a) :
    (s.hostWrite a v).registers = s.registers.set a.toNat (if a.toNat = 0x004 then v &&& 0x01 else v) ∧
    (s.hostWrite a v).tx = s.tx := by
  obtain h | h | h | h | h | h | h : a.toNat = 0x003 ∨ a.toNat = 0x004 ∨ a.toNat = 0x005 ∨ a.toNat = 0x006 ∨
      a.toNat = 0x007 ∨ a.toNat = 0x008 ∨ a.toNat = 0x009 := by
    unfold ArgAddr at ha
    omega
  all_goals
    simp [State.hostWrite, hactive, hreset, h, State.registers, State.wireByte, State.line, State.devLow, loByte_withLo,
      hiByte_withLo, loByte_withHi, hiByte_withHi, bitAt_zero_getElem]

/-- A write to a TX byte of an idle engine. -/
theorem State.hostWrite_txAddr {s : State} {a : Addr} (v : Byte) (hactive : s.status.active = false)
    (hreset : s.resetIn = false) (ha : s.TxAddr a) :
    s.hostWrite a v = { s with tx := s.tx.write (a.toNat - 0x100) v } := by
  have hcap := capacity_bounds s.params
  obtain ⟨hlo, hhi⟩ := ha
  unfold State.hostWrite
  rw [if_neg (by simp [hactive, hreset])]
  split
  case h_8 => rw [if_pos (by simp; omega), State.writeTx, if_pos (by omega)]
  all_goals omega

/-- Settles O17: a reserved address reads 0x00, whatever the engine does, and is not writable. -/
theorem reservedAddresses : Obligations.ReservedAddresses := by
  intro s a v rest ha
  have hcap := capacity_bounds s.params
  refine ⟨fun hhost => ?_, fun hhost => ?_⟩
  · have hres : State.reserved { s with host := rest } a = true := (State.reserved_iff s a).mpr ha
    rw [step_read hhost]
    obtain ⟨hfree, -⟩ | ⟨-, h⟩ := State.hostRead_cases a { s with host := rest }
    · simp [State.unspecified, hres] at hfree
    · rw [h, State.stored_of_reserved hres]
  · rw [step_write hhost (by rintro rfl; simp at ha)]
    refine congrArg _ (State.hostWrite_of_not_writable v ?_ ?_)
    · unfold ArgAddr
      omega
    · unfold State.TxAddr
      dsimp only
      omega

/-- A write to an argument register, read back. -/
theorem State.stored_hostWrite_argAddr {s : State} {a : Addr} (v : Byte) (b : Addr) (hactive : s.status.active = false)
    (hreset : s.resetIn = false) (ha : ArgAddr a) :
    (s.hostWrite a v).stored b =
      if b.toNat = a.toNat then (if a.toNat = 0x004 then v &&& 0x01 else v) else s.stored b := by
  obtain ⟨hregs, htx⟩ := State.hostWrite_argAddr v hactive hreset ha
  by_cases hb : b.toNat < 0x00F
  · rw [State.stored_register _ hb, s.stored_register hb]
    simp only [hregs, List.getElem_set, @eq_comm _ a.toNat b.toNat]
    rfl
  · obtain ⟨_, _, _, _, _, _, heq⟩ := s.hostWrite_eq a v
    rw [heq] at htx ⊢
    rw [if_neg (by omega), State.stored_window _ (by omega), s.stored_window (by omega)]
    simp only at htx
    rw [htx]

/-- A write to a TX byte, read back. -/
theorem State.stored_hostWrite_txAddr {s : State} {a : Addr} (v : Byte) (b : Addr) (hwf : s.tx.wf = true)
    (hactive : s.status.active = false) (hreset : s.resetIn = false) (ha : s.TxAddr a) :
    (s.hostWrite a v).stored b = if b.toNat = a.toNat then v else s.stored b := by
  rw [State.hostWrite_txAddr v hactive hreset ha]
  by_cases hb : b.toNat < 0x00F
  · rw [if_neg (by omega)]
    exact (State.stored_register _ hb).trans (s.stored_register hb).symm
  · rw [State.stored_window _ (by omega), s.stored_window (by omega)]
    dsimp only
    rw [Memory.read_write _ _ _ _ hwf]
    by_cases hab : b.toNat = a.toNat
    · rw [if_pos (by omega), if_pos (by omega), if_pos hab]
    · rw [if_neg hab]
      split
      · rw [if_neg (by omega)]
      · rfl

/-- A write to an idle engine, read back: a byte that is RW takes it, and no other byte changes. -/
theorem State.stored_hostWrite {s : State} {a : Addr} (v : Byte) (b : Addr) (hwf : s.tx.wf = true)
    (hactive : s.status.active = false) (hreset : s.resetIn = false) :
    (s.hostWrite a v).stored b =
      if b = a ∧ (ArgAddr a ∨ s.TxAddr a) then (if a = 0x004 then v &&& 0x01 else v) else s.stored b := by
  have hlevel : a = 0x004 ↔ a.toNat = 0x004 := BitVec.toNat_inj.symm
  have hba : b = a ↔ b.toNat = a.toNat := BitVec.toNat_inj.symm
  by_cases harg : ArgAddr a
  · rw [State.stored_hostWrite_argAddr v b hactive hreset harg]
    simp only [hlevel, hba, eq_true harg, true_or, and_true]
  by_cases htx : s.TxAddr a
  · rw [State.stored_hostWrite_txAddr v b hwf hactive hreset htx,
      if_neg (c := a = 0x004) (by rw [hlevel]; omega)]
    simp only [hba, eq_true htx, or_true, and_true]
  · rw [State.hostWrite_of_not_writable v harg htx,
      if_neg (by simp only [harg, htx, or_self, and_false, not_false_eq_true])]

/-- Settles O18: `stored_hostWrite` says which byte changes, `hostWrite_eq` that nothing else does. -/
theorem idleWriteChangesOnlyItsAddress : Obligations.IdleWriteChangesOnlyItsAddress := by
  intro s a v rest hinv hactive hreset ha hhost
  refine ⟨_, step_write hhost ha, fun b => ?_, ?_⟩
  · exact State.stored_hostWrite (s := { s with host := rest }) v b hinv.txWf hactive hreset
  · obtain ⟨_, _, _, _, _, _, h⟩ := State.hostWrite_eq a v { s with host := rest }
    rw [h]

end Sys2Proof.Machine
end

section
/-! O48. What an operation does, for every operation at once: one that passes its parameter check is a plain function
of the state in which it starts (`Reference.outcome`, tied to `exec` by `exec_of_legal`), and one that does not
finishes at once (`exec_of_illegal`). -/

namespace Sys2Proof.Reference

open Sys2Proof.Machine

/-- What the verdict of a CRC check finishes with (41_crc.md R135, R136). -/
def checkResult : CheckOutcome → ResultCode
  | .matched => .success
  | .mismatch | .badLen => .badChecksum

/-- What RESYNC finishes with (42_framer.md R162). -/
def resyncResult : ResyncOutcome → ResultCode
  | .synced => .success
  | .rewoken => .resyncedWithWakeup
  | .unreachable => .fatalCommFailure

/-- An operation after its parameter check: its result and the state in which it finishes. -/
def outcome (i : Instr) (b : State) : ResultCode × State :=
  match i with
  | .setSignal => (.success, b.setDrive (if b.argLevel then .high else .low))
  | .sendBytes => (.success, sendBytes (b.tx.prefixBytes b.len) b)
  | .receiveBytes => receiveBytes 0 b.len (b.zeroRx b.len)
  | .wakePulse => (.success, wakePulse b)
  | .sleepByte => (.success, setComm .unknownAsleep (sendBytes [b.params.val.sleepByte] b))
  | .crcCompute => (.success, b.storeCrc (crc16 (b.tx.prefixBytes b.len)))
  | .crcAppend =>
    (.success, (b.writeTxCrc b.len (crc16 (b.tx.prefixBytes b.len))).storeCrc (crc16 (b.tx.prefixBytes b.len)))
  | .crcCheckRx => (checkResult (b.rx.checkFrame b.params.val.rxCapacity), b.storeCrc b.rx.frameCrc)
  | .crcCheckTx => (checkResult (b.tx.checkFrame b.params.val.txCapacity), b.storeCrc b.tx.frameCrc)
  | .receiveFrame => receiveFrame b
  | .wakeup => wakeup b
  | .resync => (resyncResult (resync b).1, (resync b).2)
  | .sendAndReceive => sendAndReceive b

end Sys2Proof.Reference

namespace Sys2Proof.Machine

/-! ### The parameter check -/

/-- The parameter check an operation starts with, if it has one (60_exceptions.md R193(a)). -/
def paramCheck : Instr → Option Cond
  | .setSignal | .wakePulse | .sleepByte | .wakeup => none
  | .sendBytes | .crcCompute => some .argLenOverTx
  | .receiveBytes => some .argLenOverRx
  | .crcAppend => some .appendOverTx
  | .crcCheckRx => some .rxBadLen
  | .crcCheckTx => some .txBadLen
  | .receiveFrame | .resync => some .rspSizeIllegal
  | .sendAndReceive => some .exchangeIllegal

theorem Memory.checkFrame_beq_badLen (m : Memory) (cap : Nat) :
    (m.checkFrame cap == .badLen) = (decide ((m.read 0).toNat < 3) || decide (cap < (m.read 0).toNat)) := by
  rw [Bool.eq_iff_iff, beq_iff_eq, Memory.checkFrame_badLen_iff, Bool.or_eq_true, decide_eq_true_eq, decide_eq_true_eq]
  rfl

theorem paramCheck_holds {i : Instr} {c : Cond} (h : paramCheck i = some c) (s : State) : c.holds s = illegal i s := by
  cases i <;> cases h
  case crcCheckRx => exact Memory.checkFrame_beq_badLen _ _
  case crcCheckTx => exact Memory.checkFrame_beq_badLen _ _
  case sendAndReceive =>
    simp only [Cond.holds, State.exchangeIllegal, State.boundIllegal, illegal, Bool.or_assoc]
    rfl
  all_goals rfl

/-- An operation whose parameter check fails finishes with PARAMETER_ERROR and does nothing else. -/
theorem eval_opProgram_illegal {i : Instr} {s : State} (p : Params) (hhost : s.host = []) (h : illegal i s = true) :
    eval (opProgram p i) s = .fin (s.finish .parameterError) := by
  cases hc : paramCheck i with
  | none => cases i <;> cases hc <;> cases h
  | some c =>
    obtain ⟨k, hk⟩ : ∃ k, opProgram p i = .seq (.when c (.finish (.code .parameterError))) k := by
      cases i <;> cases hc <;> exact ⟨_, rfl⟩
    rw [hk, eval_when_finish _ _ hhost ((paramCheck_holds hc s).trans h)]
    rfl

/-! ### The operation after its check -/

theorem eval_seq_finish {a : Stmt} {s t : State} (f : Finish) (h : eval a s = .done t) (ht : t.host = []) :
    eval (.seq a (.finish f)) s = .fin (t.finish (f.result t)) := by
  rw [eval_seq_done h, eval_finish f ht]

theorem eval_act_finish {s : State} (a : Action) (f : Finish) (h : s.host = []) :
    eval (.seq (.act a) (.finish f)) s = .fin ((a.run s).finish (f.result (a.run s))) :=
  eval_seq_finish f (eval_act a h) ((a.host_run s).trans h)

theorem eval_seq_finish_fromSt {a : Stmt} {s t : State} {q : Sequencer} {c : ResultCode}
    (h : eval a s = .done (t.withSeq q)) (hst : q.st = c) (ht : t.host = []) :
    eval (.seq a (.finish .fromSt)) s = .fin (t.finish c) := by
  rw [eval_seq_finish _ h ht, ← hst]
  rfl

theorem Finish.fromCheck_result (s : State) : Finish.fromCheck.result s = Reference.checkResult s.seq.matched := by
  rw [Finish.result]
  cases s.seq.matched <;> rfl

/-- RESYNC after its parameter check (42_framer.md R162). -/
theorem eval_resync_finish (b : State) (q : Sequencer) (hb : b.host = []) :
    eval (.seq (resyncCode b.params.val) (.seq (.when (.rsIs .synced) (.finish (.code .success)))
        (.seq (.when (.rsIs .rewoken) (.finish (.code .resyncedWithWakeup))) (.finish (.code .fatalCommFailure)))))
        (b.withSeq q) =
      .fin ((Reference.resync b).2.finish (Reference.resyncResult (Reference.resync b).1)) := by
  obtain ⟨q1, h1, hrs, -⟩ := eval_resync b q hb
  have ht := (Reference.keeps_resync b).quiet hb
  rw [eval_seq_done h1]
  rcases hr : Reference.resync b with ⟨r, t⟩
  rw [hr] at hrs ht
  dsimp only at hrs ht ⊢
  have htq : (t.withSeq q1).host = [] := ht
  cases r with
  | synced =>
    rw [eval_when_finish _ _ htq (by rw [rsIs_holds, hrs]; rfl)]
    rfl
  | rewoken =>
    rw [eval_when_seq_false _ _ (by rw [rsIs_holds, hrs]; rfl), eval_when_finish _ _ htq (by rw [rsIs_holds, hrs]; rfl)]
    rfl
  | unreachable =>
    rw [eval_when_seq_false _ _ (by rw [rsIs_holds, hrs]; rfl), eval_when_seq_false _ _ (by rw [rsIs_holds, hrs]; rfl),
      eval_finish _ htq]
    rfl

/-- SEND_AND_RECEIVE after its parameter check (42_framer.md R157, R158). -/
theorem eval_exchange (b : State) (q : Sequencer) (hq : q.lastEscalation = .none) (hb : b.host = []) :
    eval (.seq (.act .appendFrameCrc) (.seq (.act .firstSend)
        (.seq (.loop (.lit b.params.val.nSendAttempts) (sendRetryCode b.params.val))
          (.seq (.when .escalated (.finish (.code .deviceCommStatus))) (.finish (.code .fatalCommFailure))))))
        (b.withSeq q) =
      .fin ((Reference.sendAndReceive b).2.finish (Reference.sendAndReceive b).1) := by
  have hc : (Reference.appendCrc b).host = [] := (Action.host_run .appendFrameCrc b).trans hb
  have hp : (Reference.appendCrc b).params = b.params := by simp [Reference.appendCrc]
  have hact : Action.run .appendFrameCrc (b.withSeq q) = (Reference.appendCrc b).withSeq q := by
    rw [Reference.appendCrc, ← State.storeCrc_withSeq, ← State.writeTxCrc_withSeq]
    rfl
  rw [eval_act_seq _ _ (by exact hb), hact, eval_act_seq _ _ (by exact hc)]
  obtain ⟨q1, h1⟩ := iterate_sendRetry b.params.val.nSendAttempts .none (Reference.appendCrc b) { q with s := 0 } hc hq
  have ht := (Reference.keeps_sendRetry b.params.val.nSendAttempts .none (Reference.appendCrc b)).quiet hc
  have hR : Reference.sendAndReceive b =
      Reference.sendRetry b.params.val.nSendAttempts .none (Reference.appendCrc b) := rfl
  rw [hp, ← hR] at h1
  rw [← hR] at ht
  rcases h1 with h1 | ⟨h1, hres⟩
  · exact eval_seq_fin h1
  · rw [eval_seq_done (by rw [eval_loop]; exact h1)]
    have htq : ((Reference.sendAndReceive b).2.withSeq q1).host = [] := ht
    by_cases he : q1.lastEscalation = .deviceCommStatus
    · rw [eval_when_finish _ _ htq (by exact beq_iff_eq.mpr he), hres, if_pos he]
      rfl
    · rw [eval_when_seq_false _ _ (by exact beq_eq_false_iff_ne.mpr he), eval_finish _ htq, hres, if_neg he]
      rfl

/-- The pseudocode ends the operation as the function says, where no host access is to come. -/
theorem eval_opProgram_legal {i : Instr} {b : State} (q : Sequencer) (hesc : q.lastEscalation = .none)
    (hb : b.host = []) (h : illegal i b = false) :
    eval (opProgram b.params.val i) (b.withSeq q) =
      .fin ((Reference.outcome i b).2.finish (Reference.outcome i b).1) := by
  have hq : (b.withSeq q).host = [] := hb
  have hpass : ∀ c k, paramCheck i = some c →
      eval (.seq (.when c (.finish (.code .parameterError))) k) (b.withSeq q) = eval k (b.withSeq q) := fun c k hc =>
    eval_when_seq_false _ _ ((paramCheck_holds hc _).trans h)
  cases i with
  | setSignal => exact eval_act_finish .driveArgLevel _ hq
  | sendBytes =>
    refine (hpass _ _ rfl).trans ?_
    rw [Stmt.block_cons, Stmt.block_one,
      eval_seq_finish _ (eval_send _ hq) ((Reference.keeps_sendBytes _ _).quiet hq), sendBytes_withSeq]
    rfl
  | receiveBytes =>
    obtain ⟨q1, h1, hst, -⟩ := eval_receiveBytes 0 .argLen b.len (b.zeroRx b.len) q hb rfl
    rw [opProgram, receiveBytesOpCode, Stmt.block_cons, hpass _ _ rfl, Stmt.block_cons, eval_act_seq _ _ hq]
    exact eval_seq_finish_fromSt h1 hst ((Reference.keeps_receiveBytes _ _ _).quiet hb)
  | wakePulse =>
    refine (eval_seq_finish _ (eval_drives _ hq) ((Reference.keeps_drive _ _).quiet hq)).trans ?_
    rw [Reference.drive_withSeq]
    rfl
  | sleepByte =>
    have hsend := (Reference.keeps_sendBytes (Source.sleepByte.bytes (b.withSeq q)) (b.withSeq q)).quiet hq
    refine (eval_send_seq _ _ hq).trans ?_
    rw [Stmt.block_cons, Stmt.block_one, eval_act_finish _ _ hsend, sendBytes_withSeq]
    rfl
  | crcCompute => exact (hpass _ _ rfl).trans (eval_act_finish .crcCompute _ hq)
  | crcAppend =>
    have hrun : Action.run .crcAppend (b.withSeq q) = (Reference.outcome .crcAppend b).2.withSeq q := by
      rw [Reference.outcome, ← State.storeCrc_withSeq, ← State.writeTxCrc_withSeq]
      rfl
    refine (hpass _ _ rfl).trans ((eval_act_finish .crcAppend _ hq).trans ?_)
    rw [hrun]
    rfl
  | crcCheckRx =>
    refine (hpass _ _ rfl).trans ((eval_act_finish .crcCheckRx _ hq).trans ?_)
    rw [Finish.fromCheck_result]
    rfl
  | crcCheckTx =>
    refine (hpass _ _ rfl).trans ((eval_act_finish .crcCheckTx _ hq).trans ?_)
    rw [Finish.fromCheck_result]
    rfl
  | receiveFrame =>
    obtain ⟨q1, h1, hst, -⟩ := eval_receiveFrame b q hb
    rw [opProgram, receiveFrameOpCode, Stmt.block_cons, hpass _ _ rfl]
    exact eval_seq_finish_fromSt h1 hst ((Reference.keeps_receiveFrame b).quiet hb)
  | wakeup =>
    obtain ⟨q1, h1, hst, -⟩ := eval_wakeup b q hb
    exact eval_seq_finish_fromSt h1 hst ((Reference.keeps_wakeup b).quiet hb)
  | resync => exact (hpass _ _ rfl).trans (eval_resync_finish b q hb)
  | sendAndReceive => exact (hpass _ _ rfl).trans (eval_exchange b q hesc hb)

/-! ### The operation as a whole -/

/-- An operation of a ready engine that passes its parameter check. -/
theorem exec_of_legal {i : Instr} {s : State} (hready : Ready s) (h : illegal i s = false) :
    exec i s = .next (Reference.completed (Reference.outcome i (Reference.started i s)).1
      (Reference.outcome i (Reference.started i s)).2) := by
  obtain ⟨hactive, hreset, hhost⟩ := hready
  rw [exec_eq_command]
  refine congrArg _ (command_of_fin hreset hactive ?_)
  exact eval_opProgram_legal (b := Reference.started i s)
    { Sequencer.idle with op := some i, code := opProgram s.params.val i } rfl hhost (by cases i <;> exact h)

/-- An operation of a ready engine whose parameter check fails (60_exceptions.md R193). -/
theorem exec_of_illegal {i : Instr} {s : State} (hready : Ready s) (h : illegal i s = true) :
    exec i s = .next (Reference.completed .parameterError (Reference.started i s)) := by
  obtain ⟨hactive, hreset, hhost⟩ := hready
  rw [exec_eq_command]
  refine congrArg _ (command_of_fin hreset hactive ?_)
  exact eval_opProgram_illegal (s := s.accept _ _ _) _ hhost (by cases i <;> exact h)

end Sys2Proof.Machine
end

section
/-! O48. What an operation leaves as it was: a predicate that the primitives of the receiving procedures keep holds
after each of them, where RX is written below a bound only; the frame of an operation is such a predicate. -/

namespace Sys2Proof.Reference

open Sys2Proof.Machine

/-! ### What the primitives keep, the procedures keep -/

/-- The primitives of a receiving procedure keep `P`, as long as no RX byte from `n` on is written. -/
structure ReceiveKeeps (n : Nat) (P : State → Prop) : Prop where
  pass : ∀ s d, P s → P (s.pass d)
  setDrive : ∀ s l, P s → P (s.setDrive l)
  zeroRx : ∀ s m, m ≤ n → P s → P (s.zeroRx m)
  orRxBit : ∀ s ix k, ix < n → P s → P (s.orRxBit ix k)
  setRxCount : ∀ s m, P s → P (s.setRxCount m)

/-- The primitives of the loops of SEND_AND_RECEIVE keep `P`, the response bound being `n`. -/
structure ExchangeKeeps (n : Nat) (P : State → Prop) : Prop extends ReceiveKeeps n P where
  four_le : 4 ≤ n
  bound : ∀ s, P s → s.bound = n
  setComm : ∀ s c, P s → P (setComm c s)
  loseSession : ∀ s, P s → P (loseSession s)
  checkFrame : ∀ s, P s → P (Action.run .checkFrame s)

section
variable {n : Nat} {P : State → Prop}

theorem drive_keeps (hpass : ∀ s d, P s → P (s.pass d)) (hdrive : ∀ s l, P s → P (s.setDrive l)) (gs : List Segment)
    {s : State} (h : P s) : P (drive gs s) := by
  induction gs generalizing s with
  | nil => exact h
  | cons g gs ih => exact ih (hpass _ _ (hdrive _ _ h))

theorem ReceiveKeeps.sendBytes (hP : ReceiveKeeps n P) (bs : List Byte) {s : State} (h : P s) : P (sendBytes bs s) :=
  drive_keeps hP.pass hP.setDrive _ h

theorem ReceiveKeeps.wakePulse (hP : ReceiveKeeps n P) {s : State} (h : P s) : P (wakePulse s) :=
  drive_keeps hP.pass hP.setDrive _ h

theorem ReceiveKeeps.receiveBit (hP : ReceiveKeeps n P) {s : State} (h : P s) : P (receiveBit s).2 := by
  obtain ⟨d, -, hd⟩ := receiveBit_pass s
  rw [hd]
  exact hP.pass s d h

theorem ReceiveKeeps.receiveBits (hP : ReceiveKeeps n P) {ix : Nat} (hix : ix < n) (m k : Nat) {s : State} (h : P s) :
    P (receiveBits ix m k s).2 := by
  induction m generalizing k s with
  | zero => exact h
  | succ m ih =>
    have hbit := hP.receiveBit h
    rw [Reference.receiveBits]
    rcases hr : Reference.receiveBit s with ⟨r, t⟩
    rw [hr] at hbit
    cases r with
    | timeout => exact hbit
    | zero => exact ih _ hbit
    | one => exact ih _ (hP.orRxBit _ _ _ hix hbit)

theorem ReceiveKeeps.receiveFrom (hP : ReceiveKeeps n P) (off m i : Nat) (hm : off + i + m ≤ n) {s : State} (h : P s) :
    P (receiveFrom off m i s).2 := by
  induction m generalizing i s with
  | zero => exact hP.setRxCount _ _ h
  | succ m ih =>
    have hbits := hP.receiveBits (ix := off + i) (by omega) 8 0 h
    rw [Reference.receiveFrom]
    rcases hr : Reference.receiveBits (off + i) 8 0 s with ⟨r, t⟩
    rw [hr] at hbits
    cases r with
    | false => exact hP.setRxCount _ _ hbits
    | true => exact ih _ (by omega) hbits

theorem ReceiveKeeps.receiveBytes (hP : ReceiveKeeps n P) (off m : Nat) (hm : off + m ≤ n) {s : State} (h : P s) :
    P (receiveBytes off m s).2 :=
  hP.receiveFrom off m 0 (by omega) (hP.setDrive _ _ h)

/-- A frame is no longer than the bound, so that none of it goes to `n` or beyond. -/
theorem ReceiveKeeps.receiveFrame (hP : ReceiveKeeps n P) (hn : 1 ≤ n) (hbound : ∀ s, P s → s.bound = n) {s : State}
    (h : P s) : P (receiveFrame s).2 := by
  have hzero := hP.zeroRx s s.bound (Nat.le_of_eq (hbound s h)) h
  have hfirst := hP.receiveBytes 0 1 hn (hP.sendBytes s.params.val.rxPrefix hzero)
  rw [Reference.receiveFrame]
  rcases hr : Reference.receiveBytes 0 1 (Reference.sendBytes s.params.val.rxPrefix (s.zeroRx s.bound)) with ⟨r, t⟩
  rw [hr] at hfirst
  cases r
  case success =>
    dsimp only
    split
    · exact hfirst
    · next hlen =>
      rw [State.lengthIllegal_iff, hbound t hfirst] at hlen
      exact hP.receiveBytes _ _ (by omega) hfirst
  all_goals exact hfirst

theorem ReceiveKeeps.wakeup (hP : ReceiveKeeps n P) (hn : 4 ≤ n) (hcomm : ∀ s c, P s → P (setComm c s)) {s : State}
    (h : P s) : P (wakeup s).2 := by
  have hanswer := hP.receiveBytes 0 4 hn (hP.sendBytes s.params.val.rxPrefix (hP.zeroRx _ _ hn (hP.wakePulse h)))
  rw [Reference.wakeup]
  dsimp only
  split
  · exact hcomm _ _ hanswer
  · exact hP.pass _ _ (hcomm _ _ hanswer)

theorem ExchangeKeeps.receiveFrame (hP : ExchangeKeeps n P) {s : State} (h : P s) : P (receiveFrame s).2 :=
  hP.toReceiveKeeps.receiveFrame (Nat.le_trans (by decide) hP.four_le) hP.bound h

theorem ExchangeKeeps.rewake (hP : ExchangeKeeps n P) {s : State} (h : P s) : P (rewake s).2 := by
  have hwake := hP.wakeup hP.four_le hP.setComm (hP.setComm _ .unknownAsleep (hP.sendBytes [s.params.val.sleepByte] h))
  rw [Reference.rewake]
  rcases hw : Reference.wakeup (Reference.setComm .unknownAsleep (Reference.sendBytes [s.params.val.sleepByte] s)) with
    ⟨w, t⟩
  rw [hw] at hwake
  cases w
  case success => exact hP.loseSession _ hwake
  all_goals exact hwake

theorem ExchangeKeeps.resync (hP : ExchangeKeeps n P) {s : State} (h : P s) : P (resync s).2 := by
  have hframe := hP.receiveFrame (hP.pass _ s.params.val.tSyncTimeout h)
  rw [Reference.resync]
  rcases hr : Reference.receiveFrame (s.pass s.params.val.tSyncTimeout) with ⟨r, t⟩
  rw [hr] at hframe
  cases r
  case success => exact hP.setComm _ _ hframe
  all_goals exact hP.rewake hframe

theorem ExchangeKeeps.pollReceive (hP : ExchangeKeeps n P) (m : Nat) {s : State} (h : P s) : P (pollReceive m s).2 := by
  induction m generalizing s with
  | zero => exact h
  | succ m ih =>
    have hframe := hP.receiveFrame h
    rw [Reference.pollReceive]
    rcases hr : Reference.receiveFrame s with ⟨r, t⟩
    rw [hr] at hframe
    cases r
    case rxTimeout =>
      dsimp only
      split
      · exact ih (hP.pass _ _ hframe)
      · exact ih hframe
    all_goals exact hframe

theorem ExchangeKeeps.recover (hP : ExchangeKeeps n P) {s : State} (h : P s) : P (recover s).2 := by
  have hsync := hP.resync h
  rw [Reference.recover]
  rcases hr : Reference.resync s with ⟨r, t⟩
  rw [hr] at hsync
  cases r <;> exact hsync

theorem ExchangeKeeps.recoverAndResend (hP : ExchangeKeeps n P) {s : State} (h : P s) : P (recoverAndResend s).2 := by
  have hsync := hP.resync h
  rw [Reference.recoverAndResend]
  rcases hr : Reference.resync s with ⟨r, t⟩
  rw [hr] at hsync
  cases r <;> exact hsync

theorem ExchangeKeeps.receiveOnce (hP : ExchangeKeeps n P) {s : State} (h : P s) : P (receiveOnce s).2 := by
  have hpoll := hP.pollReceive s.nPoll h
  rw [Reference.receiveOnce]
  rcases hr : Reference.pollReceive s.nPoll s with ⟨r, t⟩
  rw [hr] at hpoll
  cases r
  case rxTimeout => exact hP.recoverAndResend hpoll
  case success =>
    dsimp only
    split
    · exact hP.setComm _ _ (hP.checkFrame _ hpoll)
    · exact hP.recover (hP.checkFrame _ hpoll)
  all_goals exact hP.recover hpoll

theorem ExchangeKeeps.receiveRetry (hP : ExchangeKeeps n P) (m : Nat) {s : State} (h : P s) :
    P (receiveRetry m s).2 := by
  induction m generalizing s with
  | zero => exact h
  | succ m ih =>
    have honce := hP.receiveOnce h
    rw [Reference.receiveRetry]
    rcases hr : Reference.receiveOnce s with ⟨r, t⟩
    rw [hr] at honce
    cases r with
    | some e => exact honce
    | none => exact ih honce

theorem ExchangeKeeps.sendRetry (hP : ExchangeKeeps n P) (m : Nat) (e : Escalation) {s : State} (h : P s) :
    P (sendRetry m e s).2 := by
  induction m generalizing e s with
  | zero => cases e <;> exact h
  | succ m ih =>
    have hsent : P (transmit s) := hP.pass _ _ (hP.setComm _ _ (hP.sendBytes _ h))
    have hretry := hP.receiveRetry s.params.val.nRecvAttempts hsent
    rw [Reference.sendRetry]
    rcases hr : Reference.receiveRetry s.params.val.nRecvAttempts (transmit s) with ⟨r, t⟩
    rw [hr] at hretry
    cases r with
    | finished c => exact hretry
    | resend e => exact ih e hretry

end

end Sys2Proof.Reference

namespace Sys2Proof.Machine

/-! ### The frame of an operation -/

/-- What the operation `i`, started in `b`, has left as it was when it stands in `t` (20_memory.md R68). The bound
and the canonical form of RX are kept along with it. -/
structure Frame (i : Instr) (b t : State) : Prop where
  rxWf : t.rx.wf = true
  bound : t.bound = b.bound
  rx : ∀ k, rxExtent i b ≤ k → t.rx.read k = b.rx.read k
  tx : ∀ k, (∀ n, txCrcIndex i b = some n → k ≠ n ∧ k ≠ n + 1) → t.tx.read k = b.tx.read k
  crcResult : writesCrcResult i = false → t.crcResult = b.crcResult
  rxCount : receives i = false → t.rxCount = b.rxCount
  commState : writesCommState i = false → t.commState = b.commState
  sessionLost : canLoseSession i = false → t.status.sessionLost = b.status.sessionLost
  wire : movesWire i = false → t.driveLow = b.driveLow ∧ t.now = b.now ∧ t.trace = b.trace

theorem State.orRxBit_eq (ix k : Nat) (s : State) : s.orRxBit ix k = { s with rx := (s.orRxBit ix k).rx } := by
  unfold State.orRxBit State.writeRx
  split <;> rfl

theorem State.writeTxCrc_eq (n : Nat) (c : Word) (s : State) :
    s.writeTxCrc n c = { s with tx := (s.writeTxCrc n c).tx } := by
  unfold State.writeTxCrc State.writeTx
  repeat' split
  all_goals rfl

theorem State.read_orRxBit {s : State} (ix k j : Nat) (hwf : s.rx.wf = true) (hj : j ≠ ix) :
    (s.orRxBit ix k).rx.read j = s.rx.read j := by
  rw [State.orRxBit, State.writeRx_rx]
  split
  · rw [Memory.read_write _ _ _ _ hwf, if_neg hj]
  · rfl

theorem State.wf_orRxBit {s : State} (ix k : Nat) (hwf : s.rx.wf = true) : (s.orRxBit ix k).rx.wf = true := by
  rw [State.orRxBit, State.writeRx_rx]
  split
  · exact Memory.wf_write _ _ _ hwf
  · exact hwf

theorem State.read_writeTx {s : State} (i : Nat) (v : Byte) {j : Nat} (hwf : s.tx.wf = true) (hj : j ≠ i) :
    (s.writeTx i v).tx.read j = s.tx.read j := by
  rw [State.writeTx_tx]
  split
  · rw [Memory.read_write _ _ _ _ hwf, if_neg hj]
  · rfl

theorem State.wf_writeTx {s : State} (i : Nat) (v : Byte) (hwf : s.tx.wf = true) : (s.writeTx i v).tx.wf = true := by
  rw [State.writeTx_tx]
  split
  · exact Memory.wf_write _ _ _ hwf
  · exact hwf

theorem State.read_writeTxCrc {s : State} (n : Nat) (c : Word) {j : Nat} (hwf : s.tx.wf = true)
    (hj : j ≠ n ∧ j ≠ n + 1) : (s.writeTxCrc n c).tx.read j = s.tx.read j := by
  rw [State.writeTxCrc, State.read_writeTx _ _ (State.wf_writeTx _ _ hwf) hj.2, State.read_writeTx _ _ hwf hj.1]

theorem movesWire_of_receives : ∀ i, receives i = true → movesWire i = true := by
  intro i
  cases i <;> decide

theorem receives_of_canLoseSession : ∀ i, canLoseSession i = true → receives i = true := by
  intro i
  cases i <;> decide

theorem writesCommState_of_canLoseSession : ∀ i, canLoseSession i = true → writesCommState i = true := by
  intro i
  cases i <;> decide

/-- The operations that can resynchronise bound RX by ARG_RSP_SIZE. -/
theorem rxExtent_of_canLoseSession {i : Instr} (s : State) (h : canLoseSession i = true) : rxExtent i s = s.bound := by
  cases i <;> first | rfl | cases h

section
variable {i : Instr} {b t : State}

theorem Frame.refl (hwf : b.rx.wf = true) : Frame i b b :=
  ⟨hwf, rfl, fun _ _ => rfl, fun _ _ => rfl, fun _ => rfl, fun _ => rfl, fun _ => rfl, fun _ => rfl,
    fun _ => ⟨rfl, rfl, rfl⟩⟩

theorem Frame.pass (hi : movesWire i = true) (d : Nat) (h : Frame i b t) : Frame i b (t.pass d) :=
  { h with wire := by simp [hi] }

theorem Frame.setDrive (hi : movesWire i = true) (l : Level) (h : Frame i b t) : Frame i b (t.setDrive l) :=
  { h with wire := by simp [hi] }

theorem Frame.drive (hi : movesWire i = true) (gs : List Segment) (h : Frame i b t) :
    Frame i b (Reference.drive gs t) :=
  Reference.drive_keeps (fun _ d => Frame.pass hi d) (fun _ l => Frame.setDrive hi l) gs h

theorem Frame.setComm (hi : writesCommState i = true) (c : CommState) (h : Frame i b t) :
    Frame i b (Reference.setComm c t) :=
  { h with commState := by simp [hi] }

theorem Frame.storeCrc (hi : writesCrcResult i = true) (c : Word) (h : Frame i b t) : Frame i b (t.storeCrc c) :=
  { h with crcResult := by simp [hi] }

/-- The two CRC bytes go to the two positions of TX that are the operation's to write. -/
theorem Frame.writeTxCrc {n : Nat} (hi : txCrcIndex i b = some n) (hwf : t.tx.wf = true) (c : Word) (h : Frame i b t) :
    Frame i b (t.writeTxCrc n c) := by
  have hread : ∀ k, (∀ m, txCrcIndex i b = some m → k ≠ m ∧ k ≠ m + 1) → (t.writeTxCrc n c).tx.read k = b.tx.read k :=
    fun k hk => (State.read_writeTxCrc n c hwf (hk n hi)).trans (h.tx k hk)
  rw [State.writeTxCrc_eq]
  exact { h with tx := hread }

/-- A receiving operation writes RX below its extent, RX_COUNT and the wire. -/
theorem Frame.receiveKeeps (hi : receives i = true) : Reference.ReceiveKeeps (rxExtent i b) (Frame i b) where
  pass _ d h := h.pass (movesWire_of_receives i hi) d
  setDrive _ l h := h.setDrive (movesWire_of_receives i hi) l
  zeroRx s m hm h := { h with
    rxWf := Memory.wf_zeroFill _ _ h.rxWf
    rx := fun k hk => by
      rw [State.zeroRx_rx, Memory.read_zeroFill _ _ _ h.rxWf, if_neg (by omega)]
      exact h.rx k hk }
  orRxBit s ix k hix h := by
    have hread : ∀ j, rxExtent i b ≤ j → (s.orRxBit ix k).rx.read j = b.rx.read j := fun j hj =>
      (State.read_orRxBit ix k j h.rxWf (by omega)).trans (h.rx j hj)
    have hwf := State.wf_orRxBit ix k h.rxWf
    rw [State.orRxBit_eq]
    exact { h with rxWf := hwf, rx := hread }
  setRxCount _ _ h := { h with rxCount := by simp [hi] }

theorem Frame.exchangeKeeps (hi : canLoseSession i = true) (hb : 4 ≤ b.bound) :
    Reference.ExchangeKeeps b.bound (Frame i b) := by
  have hreceive : Reference.ReceiveKeeps b.bound (Frame i b) :=
    rxExtent_of_canLoseSession b hi ▸ Frame.receiveKeeps (receives_of_canLoseSession i hi)
  exact { hreceive with
    four_le := hb
    bound := fun _ h => h.bound
    setComm := fun _ c h => h.setComm (writesCommState_of_canLoseSession i hi) c
    loseSession := fun _ h => { h with sessionLost := by simp [hi] }
    checkFrame := fun _ h => { h with } }

theorem four_le_bound_of_legal (h : illegal i b = false) (hi : i ∈ [.receiveFrame, .resync, .sendAndReceive]) :
    4 ≤ b.bound := by
  simp only [List.mem_cons, List.not_mem_nil, or_false] at hi
  obtain rfl | rfl | rfl := hi
  all_goals
    simp only [illegal, Bool.or_eq_false_iff, decide_eq_false_iff_not] at h
    unfold State.bound
    omega

/-- An operation that passes its parameter check keeps its frame. -/
theorem Frame.outcome (hrx : b.rx.wf = true) (htx : b.tx.wf = true) (h : illegal i b = false) :
    Frame i b (Reference.outcome i b).2 := by
  have hself : Frame i b b := Frame.refl hrx
  cases i with
  | setSignal => exact hself.setDrive rfl _
  | sendBytes => exact hself.drive rfl _
  | wakePulse => exact hself.drive rfl _
  | sleepByte => exact (hself.drive rfl _).setComm rfl _
  | crcCompute => exact hself.storeCrc rfl _
  | crcCheckRx => exact hself.storeCrc rfl _
  | crcCheckTx => exact hself.storeCrc rfl _
  | crcAppend => exact (hself.writeTxCrc rfl htx _).storeCrc rfl _
  | receiveBytes =>
    have hkeeps : Reference.ReceiveKeeps b.len (Frame .receiveBytes b) :=
      Frame.receiveKeeps (i := .receiveBytes) (b := b) rfl
    exact hkeeps.receiveBytes 0 _ (Nat.le_of_eq (Nat.zero_add _)) (hkeeps.zeroRx _ _ (Nat.le_refl _) hself)
  | receiveFrame =>
    have hkeeps : Reference.ReceiveKeeps b.bound (Frame .receiveFrame b) :=
      Frame.receiveKeeps (i := .receiveFrame) (b := b) rfl
    have hbound : 4 ≤ b.bound := four_le_bound_of_legal h (by decide)
    exact hkeeps.receiveFrame (by omega) (fun _ ht => ht.bound) hself
  | wakeup =>
    have hkeeps : Reference.ReceiveKeeps 4 (Frame .wakeup b) :=
      Frame.receiveKeeps (i := .wakeup) (b := b) rfl
    exact hkeeps.wakeup (Nat.le_refl _) (fun _ c ht => ht.setComm rfl c) hself
  | resync => exact (Frame.exchangeKeeps rfl (four_le_bound_of_legal h (by decide))).resync hself
  | sendAndReceive =>
    exact (Frame.exchangeKeeps rfl (four_le_bound_of_legal h (by decide))).sendRetry _ _
      ((hself.writeTxCrc rfl htx _).storeCrc rfl _)
end

/-- An operation of a ready engine keeps its frame, from the state in which it starts. -/
theorem exec_frame {i : Instr} {s t : State} (hinv : Inv s) (hready : Ready s) (hexec : exec i s = .next t) :
    Frame i (Reference.started i s) t := by
  cases h : illegal i s with
  | true =>
    rw [exec_of_illegal hready h] at hexec
    cases hexec
    exact { Frame.refl (b := Reference.started i s) hinv.rxWf with }
  | false =>
    rw [exec_of_legal hready h] at hexec
    cases hexec
    exact { Frame.outcome (b := Reference.started i s) hinv.rxWf hinv.txWf (by cases i <;> exact h) with }

/-- Settles O48: the frame of the operation, the inputs it only reads, and the host's records. -/
theorem operationFrame : Obligations.OperationFrame := by
  intro i s t hinv hready hexec
  have hframe := exec_frame hinv hready hexec
  obtain ⟨hlen, hlevel, hsize, hdelay, htimeout, hparams, hdev⟩ := operationsOnlyReadArguments.1 i s t hexec
  obtain ⟨hcmd, -⟩ := operationFinishesOrWaits i s t hready.1 hready.2.1 hexec
  obtain ⟨hhost, hrecords⟩ := exec_records hready hexec
  simp only [State.records, Prod.mk.injEq] at hrecords
  obtain ⟨hreads, hfree, hrejected, hreset⟩ := hrecords
  have hrx : rxExtent i (Reference.started i s) = rxExtent i s := by cases i <;> rfl
  have htx : txCrcIndex i (Reference.started i s) = txCrcIndex i s := by cases i <;> rfl
  exact ⟨hrx ▸ hframe.rx, htx ▸ hframe.tx, hframe.crcResult, hframe.rxCount, hframe.commState, hframe.sessionLost,
    hframe.wire, hcmd, hrejected, hlen, hlevel, hsize, hdelay, htimeout, hparams, hdev, hhost, hreset, hreads, hfree⟩

end Sys2Proof.Machine
end

section
/-! O1, O2, O3, O4, O5, O12, O26. The code of an operation and the bus word of a host access, each read back and read
back only from itself; the expansions of a host line and the waveform of a byte follow the recursion over their
lists. -/

namespace Sys2Proof

/-! ### Operation codes -/

theorem decode_encode (i : Instr) : decode (encode i) = some i := by
  have h : Laws.DecodeEncode.Statement i := by
    cases i with
    | setSignal => exact Laws.DecodeEncode.setSignal
    | sendBytes => exact Laws.DecodeEncode.sendBytes
    | receiveBytes => exact Laws.DecodeEncode.receiveBytes
    | wakePulse => exact Laws.DecodeEncode.wakePulse
    | sleepByte => exact Laws.DecodeEncode.sleepByte
    | crcCompute => exact Laws.DecodeEncode.crcCompute
    | crcAppend => exact Laws.DecodeEncode.crcAppend
    | crcCheckRx => exact Laws.DecodeEncode.crcCheckRx
    | crcCheckTx => exact Laws.DecodeEncode.crcCheckTx
    | receiveFrame => exact Laws.DecodeEncode.receiveFrame
    | wakeup => exact Laws.DecodeEncode.wakeup
    | resync => exact Laws.DecodeEncode.resync
    | sendAndReceive => exact Laws.DecodeEncode.sendAndReceive
  exact (h (by cases i <;> rfl)).1

/-- Each arm of the decoder matches one byte, and that byte is the code of the operation it names. -/
theorem eq_encode_of_decode {w : Byte} {i : Instr} (h : decode w = some i) : w = encode i := by
  unfold decode at h
  split at h
  case h_14 => cases h
  all_goals
    cases h
    exact BitVec.eq_of_toNat_eq ‹_›

theorem decode_eq_some_iff (w : Byte) (i : Instr) : decode w = some i ↔ w = encode i :=
  ⟨eq_encode_of_decode, fun h => h ▸ decode_encode i⟩

theorem decode_eq_none_iff (w : Byte) : decode w = none ↔ ∀ i, w ≠ encode i := by
  simp only [Option.eq_none_iff_forall_ne_some, ne_eq, decode_eq_some_iff]

/-- The ranges of CMD values that 30_encoding.md R84 lists as unassigned. -/
abbrev ListedUnassigned (w : Byte) : Prop :=
  w.toNat ≤ 0x0F ∨ (0x15 ≤ w.toNat ∧ w.toNat ≤ 0x1F) ∨ (0x24 ≤ w.toNat ∧ w.toNat ≤ 0x2F) ∨ 0x34 ≤ w.toNat

theorem not_listedUnassigned_encode (i : Instr) : ¬ ListedUnassigned (encode i) := by
  cases i <;> decide

theorem ne_encode_of_listedUnassigned {w : Byte} (h : ListedUnassigned w) (i : Instr) : w ≠ encode i :=
  fun hw => not_listedUnassigned_encode i (hw ▸ h)

/-- Settles O1: the 13 values are the codes of the 13 operations. -/
theorem decodesOperationMap : Obligations.DecodesOperationMap :=
  ⟨decode_encode .setSignal, decode_encode .sendBytes, decode_encode .receiveBytes, decode_encode .wakePulse,
    decode_encode .sleepByte, decode_encode .crcCompute, decode_encode .crcAppend, decode_encode .crcCheckRx,
    decode_encode .crcCheckTx, decode_encode .receiveFrame, decode_encode .wakeup, decode_encode .resync,
    decode_encode .sendAndReceive⟩

/-- Settles O2: a byte decodes to the operation whose code it is, and no code lies in a listed range. -/
theorem decodeMatchesWholeByte : Obligations.DecodeMatchesWholeByte :=
  ⟨fun w i _ => decode_eq_some_iff w i,
    fun w h => (decode_eq_none_iff w).mpr (ne_encode_of_listedUnassigned h)⟩

/-! ### Bus words -/

section
variable (top : BitVec 2) (a : Addr) (v : Byte)

/-- Bits 19:18 of a bus word say what access it carries. -/
theorem busWord_top (k : Nat) : (top ++ a ++ v : BusWord).getLsbD (18 + k) = top.getLsbD k := by
  rw [BitVec.getLsbD_append, if_neg (by omega), BitVec.getLsbD_append, if_neg (by omega)]
  congr 1
  omega

theorem busWord_addr : (top ++ a ++ v : BusWord).extractLsb' 8 10 = a := by
  rw [BitVec.extractLsb'_append_eq_of_le (Nat.le_refl 8)]
  exact BitVec.extractLsb'_append_eq_right

theorem busWord_value : (top ++ a ++ v : BusWord).extractLsb' 0 8 = v :=
  BitVec.extractLsb'_append_eq_right

end

/-- A word whose bits 19:18 are `top` is `top`, the address and the value, one after the other. -/
theorem busWord_of_fields {top : BitVec 2} {w : BusWord} (h19 : w.getLsbD 19 = top.getLsbD 1)
    (h18 : w.getLsbD 18 = top.getLsbD 0) : top ++ w.extractLsb' 8 10 ++ w.extractLsb' 0 8 = w := by
  have htop : w.extractLsb' 18 2 = top := by
    ext k hk
    obtain rfl | rfl : k = 0 ∨ k = 1 := by omega
    · simpa [BitVec.getLsbD_eq_getElem] using h18
    · simpa [BitVec.getLsbD_eq_getElem] using h19
  rw [← htop, BitVec.extractLsb'_append_extractLsb'_eq_extractLsb' (by rfl),
    BitVec.extractLsb'_append_extractLsb'_eq_extractLsb' (by rfl)]
  exact BitVec.extractLsb'_eq_self

/-- What a bus word carries, by its fields (30_encoding.md R88; log 13). -/
theorem decodeBus_eq_some_iff (w : BusWord) (x : BusAccess) : decodeBus w = some x ↔
    w.getLsbD 18 = false ∧
      ((w.getLsbD 19 = true ∧ x = .write (w.extractLsb' 8 10) (w.extractLsb' 0 8)) ∨
        (w.getLsbD 19 = false ∧ w.extractLsb' 0 8 = 0#8 ∧ x = .read (w.extractLsb' 8 10))) := by
  unfold decodeBus
  cases w.getLsbD 18 with
  | true => simp
  | false =>
    cases w.getLsbD 19 with
    | true => simp [eq_comm]
    | false => simp [eq_comm]

/-- Settles O3: the fields of the two forms of a bus word. -/
theorem busWordFormat : Obligations.BusWordFormat :=
  ⟨fun a v => ⟨busWord_top 0b10 a v 1, busWord_top 0b00 a 0 1, busWord_top 0b10 a v 0, busWord_top 0b00 a 0 0,
    busWord_addr 0b10 a v, busWord_addr 0b00 a 0, busWord_value 0b10 a v, busWord_value 0b00 a 0⟩, rfl, rfl⟩

theorem decodeBus_encodeBus (x : BusAccess) : decodeBus (encodeBus x) = some x := by
  rw [decodeBus_eq_some_iff]
  cases x with
  | write a v =>
    obtain ⟨h19, -, h18, -, haddr, -, hvalue, -⟩ := busWordFormat.1 a v
    exact ⟨h18, .inl ⟨h19, by rw [haddr, hvalue]⟩⟩
  | read a =>
    obtain ⟨-, h19, -, h18, -, haddr, -, hvalue⟩ := busWordFormat.1 a 0
    exact ⟨h18, .inr ⟨h19, hvalue, by rw [haddr]⟩⟩

theorem encodeBus_of_decodeBus {w : BusWord} {x : BusAccess} (h : decodeBus w = some x) : encodeBus x = w := by
  obtain ⟨h18, ⟨h19, rfl⟩ | ⟨h19, hvalue, rfl⟩⟩ := (decodeBus_eq_some_iff w x).mp h
  · exact busWord_of_fields (top := 0b10) h19 h18
  · rw [encodeBus, ← hvalue]
    exact busWord_of_fields (top := 0b00) h19 h18

/-- Settles O4: the two directions of the round trip. -/
theorem busWordsRoundTrip : Obligations.BusWordsRoundTrip :=
  ⟨decodeBus_encodeBus, fun _ _ => encodeBus_of_decodeBus⟩

end Sys2Proof

namespace Sys2Proof.Machine

/-! ### Host lines -/

theorem wr_toNat (a : Addr) (v : Byte) : wr a.toNat v = ⟨0, 0, .bus (.write a v)⟩ := by
  simp [wr, now]

theorem wr_toNat_succ (a : Addr) (v : Byte) : wr (a.toNat + 1) v = ⟨0, 0, .bus (.write (a + 1) v)⟩ := by
  have haddr : BitVec.ofNat 10 (a.toNat + 1) = a + 1 := by simp [BitVec.ofNat_add]
  rw [wr, now, haddr]

theorem expand_wr16 (p : Pace) (a : Addr) (v : Word) : HostLine.expand p (.wr16 a v) =
    [⟨0, 0, .bus (.write a (v.extractLsb' 0 8))⟩, ⟨0, 0, .bus (.write (a + 1) (v.extractLsb' 8 8))⟩] := by
  simp only [HostLine.expand, wrList, wr_toNat, wr_toNat_succ]

/-- `ldtx` writes its first byte and goes on at the next index. -/
theorem expand_ldtx_cons (p : Pace) (ix : Nat) (b : Byte) (bs : List Byte) : HostLine.expand p (.ldtx ix (b :: bs)) =
    wr (0x100 + ix) b :: HostLine.expand p (.ldtx (ix + 1) bs) := rfl

theorem length_expand_rdrx (p : Pace) (ix n : Nat) : (HostLine.expand p (.rdrx ix n)).length = n := by
  simp [HostLine.expand]

theorem getElem?_expand_rdrx (p : Pace) (ix : Nat) {n k : Nat} (hk : k < n) :
    (HostLine.expand p (.rdrx ix n))[k]? = some (rd (0x200 + ix + k)) := by
  simp [HostLine.expand, hk]

/-- Settles O5: the expansion of each form of line. -/
theorem hostLinesExpand : Obligations.HostLinesExpand := fun p =>
  ⟨fun _ _ => rfl, fun _ => rfl, fun _ => rfl, rfl, expand_wr16 p, fun _ => rfl, expand_ldtx_cons p,
    length_expand_rdrx p, fun ix _ _ hk => getElem?_expand_rdrx p ix hk⟩

/-! ### Unassigned codes -/

theorem writeCmd_of_ne_encode {w : Byte} (h : ∀ i, w ≠ encode i) (s : State) : writeCmd w s = .next (s.unassigned w) := by
  rw [writeCmd, (decode_eq_none_iff w).mpr h]

theorem step_command {s : State} {w : Byte} {rest : List HostEvent}
    (h : s.host = ⟨0, 0, .bus (.write 0x000 w)⟩ :: rest) : step s = writeCmd w { s with host := rest } := by
  rw [step_of_due h (State.due_of_host_cons h), perform, if_pos rfl]

/-- On a ready engine, an unassigned code is accepted and finished in one go. -/
theorem unassigned_of_ready {s : State} (hready : Ready s) (w : Byte) :
    s.unassigned w = (s.accept w none (.finish (.code .unknownOperation))).finish .unknownOperation := by
  obtain ⟨hactive, hreset, hhost⟩ := hready
  exact command_of_fin hreset hactive (eval_finish _ hhost)

/-- Settles O12: the write is due, it is the unassigned code's, and its end puts back the idle sequencer of `Inv`. -/
theorem unassignedCodeFinishesAtOnce : Obligations.UnassignedCodeFinishesAtOnce := by
  refine ⟨fun _ => ne_encode_of_listedUnassigned, fun s w hinv hready hw => ?_⟩
  have ⟨hactive, _, hhost⟩ := hready
  have hseq := hinv.idleSeq hactive
  calc step { s with host := [⟨0, 0, .bus (.write 0x000 w)⟩] }
    _ = writeCmd w { s with host := [] } := step_command rfl
    _ = writeCmd w s := by rw [← hhost]
    _ = .next (s.unassigned w) := writeCmd_of_ne_encode hw s
    _ = _ := by rw [unassigned_of_ready hready, State.finish, State.accept, ← hseq]

/-! ### Waveforms -/

theorem bitsOf_eq_map (b : Byte) : bitsOf b = (List.range 8).map b.getLsbD := rfl

theorem byteTokens_eq_flatMap (p : Params) (b : Byte) :
    byteTokens p b = (List.range 8).flatMap fun k => tokenOf p (b.getLsbD k) := by
  rw [byteTokens, bitsOf_eq_map, List.flatMap_map]

theorem listTokens_append (p : Params) (as bs : List Byte) :
    listTokens p (as ++ bs) = listTokens p as ++ listTokens p bs :=
  List.flatMap_append

theorem listTokens_singleton (p : Params) (b : Byte) : listTokens p [b] = byteTokens p b :=
  List.flatMap_singleton _ b

/-- Settles O26: the tokens, the bits of a byte in wire order, and the bytes of a list. -/
theorem tokenWaveforms : Obligations.TokenWaveforms := by
  intro p
  have hbits : bitsOf 0x07 = [true, true, true, false, false, false, false, false] := by decide
  exact ⟨rfl, rfl, byteTokens_eq_flatMap p, congrArg _ hbits, listTokens_append p, listTokens_singleton p, rfl⟩

end Sys2Proof.Machine
end

section
/-! O25, O34, O35, O36, O37, O38. The level of the line, and the transceiver's operations, each read off
`exec_of_legal`: what is left to say is which ARG_LEN is legal and what a wake pulse does to the wire. -/

namespace Sys2Proof.Machine

/-! ### The line -/

/-- The device's pull is one of its pulses covering `now` (40_transceiver.md R101; log 2). -/
theorem State.devLow_iff (s : State) : s.devLow = true ↔ ∃ p ∈ s.dev, p.start ≤ s.now ∧ s.now < p.stop := by
  simp [State.devLow]

theorem State.line_eq_low_iff (s : State) : s.line = .low ↔ s.driveLow = true ∨ s.devLow = true := by
  rw [State.line, ← Bool.or_eq_true]
  split <;> simp [*]

theorem State.line_eq_high_iff (s : State) : s.line = .high ↔ s.line ≠ .low := by
  cases s.line <;> decide

/-- Settles O25: either pull makes the line LOW, and there are two levels. -/
theorem lineIsOpenDrain : Obligations.LineIsOpenDrain := fun s =>
  ⟨by rw [s.line_eq_low_iff, s.devLow_iff], s.line_eq_high_iff⟩

/-! ### Operations that only drive the line -/

/-- Time that passes with no host access to come. -/
theorem State.pass_of_host_nil (d : Nat) {s : State} (h : s.host = []) :
    s.pass d = { s with now := s.now + d, trace := extendTrace s.trace s.driven d } := by
  rw [State.pass, h]
  rfl

/-- WakePulse in full: the two stretches of 40_transceiver.md R109. -/
theorem wakePulse_eq {b : State} (hb : b.host = []) : Reference.wakePulse b =
    { b with
      driveLow := false
      now := b.now + b.params.val.tWakeLow + b.params.val.tWakeSettle
      trace := extendTrace (extendTrace b.trace .low b.params.val.tWakeLow) .high b.params.val.tWakeSettle } := by
  have hlow : (b.setDrive .low).host = [] := hb
  have hhigh : (((b.setDrive .low).pass b.params.val.tWakeLow).setDrive .high).host = [] :=
    State.pass_host_nil _ _ hlow
  calc Reference.wakePulse b
    _ = (((b.setDrive .low).pass b.params.val.tWakeLow).setDrive .high).pass b.params.val.tWakeSettle := rfl
    _ = _ := by rw [State.pass_of_host_nil _ hhigh, State.pass_of_host_nil _ hlow]; rfl

/-- Settles O34: SET_SIGNAL has no parameter check and takes no time. -/
theorem setSignalResult : Obligations.SetSignalResult := by
  intro s hready
  have hdrive : (Reference.outcome .setSignal (Reference.started .setSignal s)).2 =
      { Reference.started .setSignal s with driveLow := !s.argLevel } := by
    change (Reference.started .setSignal s).setDrive (if s.argLevel then .high else .low) = _
    cases s.argLevel <;> rfl
  rw [exec_of_legal hready rfl, hdrive]
  rfl

/-- Settles O35: an ARG_LEN up to TX_CAPACITY passes the check. -/
theorem sendBytesResult : Obligations.SendBytesResult := fun _ hready hlen =>
  exec_of_legal hready (decide_eq_false (Nat.not_lt.mpr hlen))

/-- Settles O36: WAKE_PULSE has no parameter check; its two drives are written out. -/
theorem wakePulseResult : Obligations.WakePulseResult := by
  intro s hready
  have ⟨_, _, hhost⟩ := hready
  refine ⟨_, ?_, rfl⟩
  rw [exec_of_legal hready rfl, Reference.outcome, wakePulse_eq (b := Reference.started .wakePulse s) hhost]
  rfl

/-- Settles O37: SLEEP_BYTE has no parameter check. -/
theorem sleepByteResult : Obligations.SleepByteResult := fun _ hready => exec_of_legal hready rfl

/-! ### RECEIVE_BYTES -/

/-- The state in which RECEIVE_BYTES calls ReceiveBytes (40_transceiver.md R112). -/
def receiveStart (s : State) : State := (Reference.started .receiveBytes s).zeroRx s.argLen.toNat

theorem exec_receiveBytes {s : State} (hready : Ready s) (hlen : s.argLen.toNat ≤ s.params.val.rxCapacity) :
    exec .receiveBytes s = .next (Reference.completed (Reference.receiveBytes 0 s.argLen.toNat (receiveStart s)).1
      (Reference.receiveBytes 0 s.argLen.toNat (receiveStart s)).2) :=
  exec_of_legal hready (decide_eq_false (Nat.not_lt.mpr hlen))

/-- Settles O38: an ARG_LEN up to RX_CAPACITY passes the check. -/
theorem receiveBytesResult : Obligations.ReceiveBytesResult := fun _ hready hlen =>
  ⟨_, _, rfl, exec_receiveBytes hready hlen⟩

end Sys2Proof.Machine
end

section
/-! O52, O58. How ReceiveBytes can end is read off its loop over the bytes; a window of WaitLevel that never shows its
level runs to its end, and so a line that stays HIGH, or LOW, times the first bit out. -/

namespace Sys2Proof.Reference

open Sys2Proof.Machine

/-! ### How ReceiveBytes ends -/

/-- All bytes came, or the byte `j` did not, and RX_COUNT says how far it got (40_transceiver.md R108). -/
theorem receiveFrom_outcome (off n i : Nat) (s : State) :
    ((receiveFrom off n i s).1 = .success ∧ (receiveFrom off n i s).2.rxCount = BitVec.ofNat 8 (off + (i + n))) ∨
    ∃ j, i ≤ j ∧ j < i + n ∧ (receiveFrom off n i s).1 = (if off + j = 0 then .rxTimeout else .rxPartial) ∧
      (receiveFrom off n i s).2.rxCount = BitVec.ofNat 8 (off + j) := by
  induction n generalizing i s with
  | zero => exact .inl ⟨rfl, rfl⟩
  | succ n ih =>
    rw [receiveFrom]
    rcases receiveBits (off + i) 8 0 s with ⟨_ | _, t⟩
    · exact .inr ⟨i, Nat.le_refl i, by omega, rfl, rfl⟩
    · obtain ⟨hok, hcount⟩ | ⟨j, hij, hj, hfail, hcount⟩ := ih (i + 1) t
      · exact .inl ⟨hok, hcount.trans (by rw [Nat.add_assoc, Nat.add_comm 1])⟩
      · exact .inr ⟨j, by omega, by omega, hfail, hcount⟩

theorem receiveBytes_outcome (off n : Nat) (s : State) :
    ((receiveBytes off n s).1 = .success ∧ (receiveBytes off n s).2.rxCount = BitVec.ofNat 8 (off + n)) ∨
    ∃ j < n, (receiveBytes off n s).1 = (if off + j = 0 then .rxTimeout else .rxPartial) ∧
      (receiveBytes off n s).2.rxCount = BitVec.ofNat 8 (off + j) := by
  simpa only [receiveBytes, Nat.zero_add, Nat.zero_le, true_and] using receiveFrom_outcome off n 0 (s.setDrive .high)

/-! ### A line that stays at one level -/

/-- A window none of whose samples shows the level. -/
theorem waitLevel_of_absent (l : Level) (n k : Nat) {s : State}
    (h : ∀ j < n, (s.pass (j * s.params.val.tSample)).line ≠ l) :
    waitLevel l n k s = (.timeout, s.pass (n * s.params.val.tSample)) := by
  induction n generalizing k s with
  | zero => simp [waitLevel]
  | succ n ih =>
    have hfirst : s.line ≠ l := by simpa using h 0 (Nat.succ_pos n)
    have hrest : ∀ j, (s.pass s.params.val.tSample).pass (j * s.params.val.tSample) =
        s.pass ((j + 1) * s.params.val.tSample) := fun j => by
      rw [State.pass_pass, Nat.succ_mul, Nat.add_comm]
    rw [waitLevel, if_neg hfirst, ih (k + 1) fun j hj => ?_, State.pass_params, hrest]
    rw [State.pass_params, hrest]
    exact h (j + 1) (by omega)

/-- No sample of the first window is LOW: the bit never starts (40_transceiver.md R107). -/
theorem receiveBit_of_high {s : State} (h : ∀ d, (s.pass d).line = .high) :
    receiveBit s = (.timeout, s.pass (s.params.val.nStart * s.params.val.tSample)) := by
  unfold receiveBit
  dsimp only
  rw [waitLevel_of_absent .low _ 0 fun j _ => by rw [h]; decide]

/-- The first sample is LOW, and no sample of the rising-edge window is HIGH (40_transceiver.md R107). -/
theorem receiveBit_of_low {s : State} (h : ∀ d ≤ s.params.val.nRise * s.params.val.tSample, (s.pass d).line = .low)
    (hstart : 1 ≤ s.params.val.nStart) :
    receiveBit s = (.timeout, s.pass ((1 + s.params.val.nRise) * s.params.val.tSample)) := by
  have hlow : s.line = .low := by simpa using h 0 (Nat.zero_le _)
  obtain ⟨n, hn⟩ : ∃ n, s.params.val.nStart = n + 1 := ⟨_, (Nat.sub_add_cancel hstart).symm⟩
  have hfound : waitLevel .low s.params.val.nStart 0 s = (.found 0, s) := by
    rw [hn, waitLevel, if_pos hlow]
  have hrise : waitLevel .high s.params.val.nRise 0 (s.pass s.params.val.tSample) =
      (.timeout, s.pass ((1 + s.params.val.nRise) * s.params.val.tSample)) := by
    rw [waitLevel_of_absent .high _ 0 fun j hj => ?_]
    · rw [State.pass_pass, State.pass_params, Nat.add_mul, Nat.one_mul]
    · have hj' := Nat.mul_le_mul_right s.params.val.tSample (Nat.succ_le_of_lt hj)
      rw [State.pass_pass, State.pass_params, h _ (by rw [Nat.succ_mul] at hj'; omega)]
      decide
  unfold receiveBit
  dsimp only
  rw [hfound]
  dsimp only
  rw [hrise]

/-- The first bit of all times out. -/
theorem receiveBytes_of_timeout {s t : State} {n : Nat} (hn : 1 ≤ n) (h : receiveBit (s.setDrive .high) = (.timeout, t)) :
    receiveBytes 0 n s = (.rxTimeout, t.setRxCount 0) := by
  obtain ⟨m, rfl⟩ : ∃ m, n = m + 1 := ⟨_, (Nat.sub_add_cancel hn).symm⟩
  rw [receiveBytes, receiveFrom, receiveBits, h]
  rfl

end Sys2Proof.Reference

namespace Sys2Proof.Machine

/-- Settles O52: ReceiveBytes(0, n) ends with all of the bytes, none of them, or some of them. -/
theorem receiveBytesOutcome : Obligations.ReceiveBytesOutcome := by
  intro s t hready hlen hexec
  have hlt := s.argLen.isLt
  rw [exec_receiveBytes hready hlen] at hexec
  cases hexec
  obtain ⟨hok, hcount⟩ | ⟨j, hj, hfail, hcount⟩ :=
    Reference.receiveBytes_outcome 0 s.argLen.toNat (receiveStart s)
  · exact .inl ⟨hok, hcount.trans (by simp)⟩
  · rw [Nat.zero_add] at hfail hcount
    by_cases hzero : j = 0
    · subst hzero
      exact .inr (.inl ⟨hfail, hcount, hj⟩)
    · have htoNat : (BitVec.ofNat 8 j).toNat = j := Nat.mod_eq_of_lt (by omega)
      rw [if_neg hzero] at hfail
      rw [← htoNat, ← hcount] at hj hzero
      exact .inr (.inr ⟨hfail, Nat.one_le_iff_ne_zero.mpr hzero, hj⟩)

/-! ### RECEIVE_BYTES with a line that stays at one level -/

theorem one_le_counts (p : WfParams) : 1 ≤ p.val.nStart ∧ 1 ≤ p.val.nSendAttempts := by
  have h := p.property
  simp only [Params.wf, Bool.and_eq_true, decide_eq_true_eq] at h
  omega

/-- While the line is released, its level is the device's. -/
theorem State.line_of_released {s : State} (h : s.driveLow = false) : s.line = if s.devLow then .low else .high := by
  simp [State.line, h]

/-- RECEIVE_BYTES when the first bit times out after `d` µs. -/
theorem exec_receiveBytes_of_timeout {s : State} {d : Nat} (hready : Ready s) (hone : 1 ≤ s.argLen.toNat)
    (hlen : s.argLen.toNat ≤ s.params.val.rxCapacity)
    (h : Reference.receiveBit ((receiveStart s).setDrive .high) = (.timeout, ((receiveStart s).setDrive .high).pass d)) :
    ∃ t, exec .receiveBytes s = .next t ∧ t.result = .rxTimeout ∧ t.rxCount = 0 ∧ t.driveLow = false ∧
      t.now = s.now + d := by
  rw [exec_receiveBytes hready hlen, Reference.receiveBytes_of_timeout hone h]
  exact ⟨_, rfl, rfl, rfl, rfl, rfl⟩

/-- Settles O58: a silent device leaves the line HIGH, and one that holds it leaves it LOW for the whole of the
rising-edge window. -/
theorem receiveTimeouts : Obligations.ReceiveTimeouts := by
  intro s hready hone hlen
  refine ⟨fun hsilent => ?_, fun ⟨p, hp, hstart, hstop⟩ => ?_⟩
  · refine exec_receiveBytes_of_timeout hready hone hlen (Reference.receiveBit_of_high fun d => ?_)
    have hdev : (((receiveStart s).setDrive .high).pass d).devLow = false := by
      rw [State.devLow, State.pass_dev, State.setDrive_dev, show (receiveStart s).dev = [] from hsilent]
      rfl
    rw [State.line_of_released rfl, hdev]
    rfl
  · refine exec_receiveBytes_of_timeout hready hone hlen
      (Reference.receiveBit_of_low (fun d hd => ?_) (one_le_counts s.params).1)
    have hd' : d ≤ s.params.val.nRise * s.params.val.tSample := hd
    exact (State.line_eq_low_iff _).mpr (.inr ((State.devLow_iff _).mpr
      ⟨p, hp, Nat.le_trans hstart (Nat.le_add_right _ d), Nat.lt_of_le_of_lt (Nat.add_le_add_left hd' _) hstop⟩))

end Sys2Proof.Machine
end

section
/-! O49. The wire an operation leaves: every token ends with a release, ReceiveBytes releases the line before it does
anything else, and each procedure that receives ends released; the loops of SEND_AND_RECEIVE only keep it so. -/

namespace Sys2Proof.Reference

open Sys2Proof.Machine

/-! ### Drives -/

theorem drive_append (gs hs : List Segment) (s : State) : drive (gs ++ hs) s = drive hs (drive gs s) := by
  induction gs generalizing s with
  | nil => rfl
  | cons g gs ih => exact ih _

/-- Drives that each end with a release, one after the other. -/
theorem drive_flatMap_driveLow {α : Type} {f : α → List Segment} (hf : ∀ x s, (drive (f x) s).driveLow = false)
    (xs : List α) (s : State) : (drive (xs.flatMap f) s).driveLow = if xs = [] then s.driveLow else false := by
  induction xs generalizing s with
  | nil => rfl
  | cons x xs ih =>
    rw [List.flatMap_cons, drive_append, ih, hf, ite_self, if_neg (List.cons_ne_nil x xs)]

theorem drive_tokenOf_driveLow (p : Params) (b : Bool) (s : State) : (drive (tokenOf p b) s).driveLow = false := by
  cases b <;> rfl

theorem drive_byteTokens_driveLow (p : Params) (b : Byte) (s : State) : (drive (byteTokens p b) s).driveLow = false :=
  drive_flatMap_driveLow (drive_tokenOf_driveLow p) (bitsOf b) s

/-- SendBytes ends with a release; without a byte it does not touch the wire (40_transceiver.md R105, R106). -/
theorem sendBytes_driveLow (bs : List Byte) (s : State) :
    (sendBytes bs s).driveLow = if bs = [] then s.driveLow else false :=
  drive_flatMap_driveLow (drive_byteTokens_driveLow s.params.val) bs s

/-! ### Procedures that end released -/

@[simp] theorem setComm_driveLow (c : CommState) (s : State) : (setComm c s).driveLow = s.driveLow := rfl

@[simp] theorem loseSession_driveLow (s : State) : (loseSession s).driveLow = s.driveLow := rfl

@[simp] theorem receiveBit_driveLow (s : State) : (receiveBit s).2.driveLow = s.driveLow := by
  obtain ⟨d, -, hd⟩ := receiveBit_pass s
  rw [hd, State.pass_driveLow]

theorem receiveBits_driveLow (ix n k : Nat) (s : State) : (receiveBits ix n k s).2.driveLow = s.driveLow := by
  induction n generalizing k s with
  | zero => rfl
  | succ n ih =>
    have hbit := receiveBit_driveLow s
    rw [receiveBits]
    rcases hr : receiveBit s with ⟨r, t⟩
    rw [hr] at hbit
    cases r with
    | timeout => exact hbit
    | zero => exact (ih _ _).trans hbit
    | one => exact (ih _ _).trans ((State.orRxBit_driveLow _ _ _).trans hbit)

theorem receiveFrom_driveLow (off n i : Nat) (s : State) : (receiveFrom off n i s).2.driveLow = s.driveLow := by
  induction n generalizing i s with
  | zero => rfl
  | succ n ih =>
    have hbits := receiveBits_driveLow (off + i) 8 0 s
    rw [receiveFrom]
    rcases hr : receiveBits (off + i) 8 0 s with ⟨r, t⟩
    rw [hr] at hbits
    cases r with
    | false => exact hbits
    | true => exact (ih _ _).trans hbits

theorem receiveBytes_driveLow (off n : Nat) (s : State) : (receiveBytes off n s).2.driveLow = false :=
  receiveFrom_driveLow off n 0 (s.setDrive .high)

theorem receiveFrame_driveLow (s : State) : (receiveFrame s).2.driveLow = false := by
  have hfirst := receiveBytes_driveLow 0 1 (sendBytes s.params.val.rxPrefix (s.zeroRx s.bound))
  rw [receiveFrame]
  rcases hr : receiveBytes 0 1 (sendBytes s.params.val.rxPrefix (s.zeroRx s.bound)) with ⟨r, t⟩
  rw [hr] at hfirst
  cases r
  case success =>
    dsimp only
    split
    · exact hfirst
    · exact receiveBytes_driveLow _ _ _
  all_goals exact hfirst

theorem wakePulse_driveLow (s : State) : (wakePulse s).driveLow = false := rfl

theorem wakeup_driveLow (s : State) : (wakeup s).2.driveLow = false := by
  have hanswer := receiveBytes_driveLow 0 4 (sendBytes s.params.val.rxPrefix ((wakePulse s).zeroRx 4))
  rw [wakeup]
  dsimp only
  split
  · exact (setComm_driveLow _ _).trans hanswer
  · exact ((State.pass_driveLow _ _).trans (setComm_driveLow _ _)).trans hanswer

theorem rewake_driveLow (s : State) : (rewake s).2.driveLow = false := by
  have hwake := wakeup_driveLow (setComm .unknownAsleep (sendBytes [s.params.val.sleepByte] s))
  rw [rewake]
  rcases hw : wakeup (setComm .unknownAsleep (sendBytes [s.params.val.sleepByte] s)) with ⟨w, t⟩
  rw [hw] at hwake
  cases w
  case success => exact (loseSession_driveLow t).trans hwake
  all_goals exact hwake

theorem resync_driveLow (s : State) : (resync s).2.driveLow = false := by
  have hframe := receiveFrame_driveLow (s.pass s.params.val.tSyncTimeout)
  rw [resync]
  rcases hr : receiveFrame (s.pass s.params.val.tSyncTimeout) with ⟨r, t⟩
  rw [hr] at hframe
  cases r
  case success => exact (setComm_driveLow _ t).trans hframe
  all_goals
    dsimp only
    exact rewake_driveLow t

theorem recover_driveLow (s : State) : (recover s).2.driveLow = false := by
  have hsync := resync_driveLow s
  rw [recover]
  rcases hr : resync s with ⟨r, t⟩
  rw [hr] at hsync
  cases r <;> exact hsync

theorem recoverAndResend_driveLow (s : State) : (recoverAndResend s).2.driveLow = false := by
  have hsync := resync_driveLow s
  rw [recoverAndResend]
  rcases hr : resync s with ⟨r, t⟩
  rw [hr] at hsync
  cases r <;> exact hsync

/-! ### Loops that keep the line released -/

theorem pollReceive_released (n : Nat) {s : State} (h : s.driveLow = false) : (pollReceive n s).2.driveLow = false := by
  induction n generalizing s with
  | zero => exact h
  | succ n ih =>
    have hframe := receiveFrame_driveLow s
    rw [pollReceive]
    rcases hr : receiveFrame s with ⟨r, t⟩
    rw [hr] at hframe
    cases r
    case rxTimeout =>
      dsimp only
      split
      all_goals exact ih hframe
    all_goals exact hframe

theorem receiveOnce_released {s : State} (h : s.driveLow = false) : (receiveOnce s).2.driveLow = false := by
  have hpoll := pollReceive_released s.nPoll h
  rw [receiveOnce]
  rcases hr : pollReceive s.nPoll s with ⟨r, t⟩
  rw [hr] at hpoll
  cases r
  case rxTimeout => exact recoverAndResend_driveLow t
  case success =>
    dsimp only
    split
    · exact (setComm_driveLow _ _).trans hpoll
    · exact recover_driveLow _
  all_goals
    dsimp only
    exact recover_driveLow t

theorem receiveRetry_released (n : Nat) {s : State} (h : s.driveLow = false) :
    (receiveRetry n s).2.driveLow = false := by
  induction n generalizing s with
  | zero => exact h
  | succ n ih =>
    have honce := receiveOnce_released h
    rw [receiveRetry]
    rcases hr : receiveOnce s with ⟨r, t⟩
    rw [hr] at honce
    cases r with
    | some e => exact honce
    | none => exact ih honce

theorem transmit_driveLow (s : State) : (transmit s).driveLow =
    if s.params.val.cmdPrefix ++ s.tx.prefixBytes s.tx.frameLen = [] then s.driveLow else false :=
  sendBytes_driveLow _ s

/-- The outer loop makes at least one iteration, and its first transmission releases the line. -/
theorem sendRetry_released (n : Nat) (e : Escalation) {s : State} (h : (transmit s).driveLow = false) :
    (sendRetry (n + 1) e s).2.driveLow = false := by
  induction n generalizing e s with
  | zero =>
    have hretry := receiveRetry_released s.params.val.nRecvAttempts h
    rw [sendRetry]
    rcases hr : receiveRetry s.params.val.nRecvAttempts (transmit s) with ⟨r, t⟩
    rw [hr] at hretry
    cases r with
    | finished c => exact hretry
    | resend e => cases e <;> exact hretry
  | succ n ih =>
    have hretry := receiveRetry_released s.params.val.nRecvAttempts h
    rw [sendRetry]
    rcases hr : receiveRetry s.params.val.nRecvAttempts (transmit s) with ⟨r, t⟩
    rw [hr] at hretry
    cases r with
    | finished c => exact hretry
    | resend e => exact ih e (by rw [transmit_driveLow, hretry, ite_self])

end Sys2Proof.Reference

namespace Sys2Proof.Machine

/-! ### The command frame -/

/-- A write leaves the bytes at the other indices, whether the buffer is in canonical form or not. -/
theorem Memory.read_write_of_ne (m : Memory) {i j : Nat} (v : Byte) (hij : j ≠ i) :
    (m.write i v).read j = m.read j := by
  induction m with
  | nil =>
    rw [Memory.write]
    split
    · rfl
    · simp [Memory.read, hij.symm]
  | cons c m ih =>
    obtain ⟨a, w⟩ := c
    rw [Memory.write]
    split
    · split <;> simp [Memory.read, hij.symm]
    · split
      · next heq =>
        subst heq
        split <;> simp [Memory.read, hij.symm]
      · simp only [Memory.read, ih]

theorem State.read_writeTx_of_ne (s : State) {i j : Nat} (v : Byte) (hij : j ≠ i) :
    (s.writeTx i v).tx.read j = s.tx.read j := by
  rw [State.writeTx_tx]
  split
  · exact Memory.read_write_of_ne _ v hij
  · rfl

end Sys2Proof.Machine

namespace Sys2Proof.Reference

open Sys2Proof.Machine

/-- The CRC goes past the length byte. -/
theorem appendCrc_frameLen {s : State} (h : 3 ≤ s.tx.frameLen) : (appendCrc s).tx.frameLen = s.tx.frameLen := by
  have hread : (appendCrc s).tx.read 0 = s.tx.read 0 :=
    (State.read_writeTx_of_ne _ _ (by omega)).trans (State.read_writeTx_of_ne _ _ (by omega))
  rw [Memory.frameLen, hread, Memory.frameLen]

theorem sendAndReceive_driveLow {s : State} (h : 3 ≤ s.tx.frameLen) : (sendAndReceive s).2.driveLow = false := by
  obtain ⟨-, hsends⟩ := one_le_counts s.params
  obtain ⟨n, hn⟩ : ∃ n, s.params.val.nSendAttempts = n + 1 := ⟨_, (Nat.sub_add_cancel hsends).symm⟩
  rw [sendAndReceive, hn]
  refine sendRetry_released n .none ?_
  rw [transmit_driveLow, if_neg]
  intro hnil
  have hlen := congrArg List.length hnil
  rw [List.length_append, Memory.prefixBytes_length, appendCrc_frameLen h, List.length_nil] at hlen
  omega

end Sys2Proof.Reference

namespace Sys2Proof.Machine

/-! ### Every operation -/

theorem Memory.prefixBytes_eq_nil_iff (m : Memory) (n : Nat) : m.prefixBytes n = [] ↔ n = 0 := by
  rw [← List.length_eq_zero_iff, Memory.prefixBytes_length]

/-- The wire after an operation that passes its parameter check (40_transceiver.md R105). -/
theorem outcome_driveLow {i : Instr} {b : State} (h : illegal i b = false) :
    (Reference.outcome i b).2.driveLow =
      if movesWire i = false then b.driveLow
      else if i = .setSignal then !b.argLevel
      else if i = .sendBytes ∧ b.argLen = 0 then b.driveLow
      else false := by
  cases i with
  | setSignal =>
    rw [Reference.outcome]
    cases b.argLevel <;> rfl
  | sendBytes =>
    have hempty : b.tx.prefixBytes b.len = [] ↔ b.argLen = 0 := by
      rw [Memory.prefixBytes_eq_nil_iff, State.len, BitVec.toNat_eq]
      rfl
    rw [Reference.outcome, Reference.sendBytes_driveLow]
    simp [hempty, movesWire]
  | receiveBytes => exact Reference.receiveBytes_driveLow _ _ _
  | wakePulse => exact Reference.wakePulse_driveLow b
  | sleepByte => exact Reference.sendBytes_driveLow [b.params.val.sleepByte] b
  | crcCompute => rfl
  | crcAppend => exact State.writeTxCrc_driveLow _ _ _
  | crcCheckRx => rfl
  | crcCheckTx => rfl
  | receiveFrame => exact Reference.receiveFrame_driveLow b
  | wakeup => exact Reference.wakeup_driveLow b
  | resync => exact Reference.resync_driveLow b
  | sendAndReceive =>
    have hlen : 3 ≤ b.tx.frameLen := by
      simp only [illegal, Bool.or_eq_false_iff, decide_eq_false_iff_not] at h
      unfold Memory.frameLen
      omega
    exact Reference.sendAndReceive_driveLow hlen

/-- Settles O49: a failed check leaves the wire alone, and for the rest `outcome_driveLow` says what is left. -/
theorem wireLeft : Obligations.WireLeft := by
  intro i s t hready hexec
  cases h : illegal i s with
  | true =>
    rw [exec_of_illegal hready h] at hexec
    cases hexec
    rw [if_pos (.inl rfl)]
    rfl
  | false =>
    rw [exec_of_legal hready h] at hexec
    cases hexec
    simp only [Bool.false_eq_true, false_or]
    exact outcome_driveLow (b := Reference.started i s) (by cases i <;> exact h)

end Sys2Proof.Machine
end

section
/-! O28, O29, O30, O31, O39, O40, O41, O42, O59. The CRC register loses nothing: its bit 0 shows the feedback of the
last data bit, so a step on a known bit can be undone, and the register is linear, so a flipped bit shows in it. Hence
a frame with one bit flipped has another CRC. The operations are read off `exec_of_legal`, and CRC_APPEND followed by
CRC_CHECK_TX off the statements about the two. -/

namespace Sys2Proof.Machine

/-! ### The CRC register -/

theorem crcByte_eq (c : Word) (b : Byte) : crcByte c b =
    crcBit (crcBit (crcBit (crcBit (crcBit (crcBit (crcBit (crcBit c (b.getLsbD 0)) (b.getLsbD 1)) (b.getLsbD 2))
      (b.getLsbD 3)) (b.getLsbD 4)) (b.getLsbD 5)) (b.getLsbD 6)) (b.getLsbD 7) := rfl

theorem crc16_append (as bs : List Byte) : crc16 (as ++ bs) = bs.foldl crcByte (crc16 as) :=
  List.foldl_append

theorem crc16_append_singleton (bs : List Byte) (b : Byte) : crc16 (bs ++ [b]) = crcByte (crc16 bs) b :=
  crc16_append bs [b]

/-- Settles O28: the register's recursions are the definitions', and the vectors are evaluated. -/
theorem crcRegister : Obligations.CrcRegister :=
  ⟨fun _ _ => rfl, crcByte_eq, rfl, crc16_append_singleton, by decide, by decide, by decide +kernel,
    by decide +kernel⟩

theorem crc16_replicate_zero (k : Nat) : crc16 (List.replicate k 0x00#8) = crcInit := by
  induction k with
  | zero => rfl
  | succ k ih =>
    have hzero : crcByte crcInit 0x00#8 = crcInit := by decide
    rw [List.replicate_succ', crc16_append_singleton, ih, hzero]

/-- Settles O29: the leading bytes leave the register at its start value. -/
theorem crcIgnoresLeadingZeros : Obligations.CrcIgnoresLeadingZeros := by
  intro k bs
  rw [crc16_append, crc16_replicate_zero, crc16]

/-! ### The register is injective and linear -/

/-- Bit 0 of the register after a data bit is the feedback, because `crcPoly` is odd. -/
theorem crcBit_getLsbD_zero (c : Word) (d : Bool) : (crcBit c d).getLsbD 0 = (d ^^ c.getLsbD 15) := by
  unfold crcBit crcPoly
  split <;> simp_all

/-- Above bit 0, a data bit shifts the register and adds the polynomial's bits on feedback. -/
theorem crcBit_getLsbD_succ (c : Word) (d : Bool) {i : Nat} (hi : i < 15) :
    (crcBit c d).getLsbD (i + 1) = (c.getLsbD i ^^ ((d ^^ c.getLsbD 15) && crcPoly.getLsbD (i + 1))) := by
  have hshift : (c <<< 1).getLsbD (i + 1) = c.getLsbD i := by
    rw [BitVec.getLsbD_shiftLeft]
    simp [show i + 1 < 16 by omega]
  unfold crcBit
  split <;> simp only [BitVec.getLsbD_xor, *, Bool.true_and, Bool.false_and, Bool.xor_false]

theorem crcBit_injective (d : Bool) : Function.Injective (crcBit · d) := by
  intro c c' h
  have hbits : ∀ i, (crcBit c d).getLsbD i = (crcBit c' d).getLsbD i := fun i => congrArg (·.getLsbD i) h
  have hfeedback : (d ^^ c.getLsbD 15) = (d ^^ c'.getLsbD 15) := by
    rw [← crcBit_getLsbD_zero, ← crcBit_getLsbD_zero, hbits]
  refine BitVec.eq_of_getLsbD_eq fun i hi => ?_
  obtain hlow | rfl : i < 15 ∨ i = 15 := by omega
  · have hshift := hbits (i + 1)
    rw [crcBit_getLsbD_succ c d hlow, crcBit_getLsbD_succ c' d hlow, hfeedback] at hshift
    exact Bool.xor_left_inj.mp hshift
  · exact Bool.xor_right_inj.mp hfeedback

theorem foldl_injective {α β : Type} {f : α → β → α} (hf : ∀ b, Function.Injective (f · b)) (l : List β) :
    Function.Injective (List.foldl f · l) := by
  induction l with
  | nil => exact fun _ _ h => h
  | cons b l ih => exact ih.comp (hf b)

theorem crcByte_injective (b : Byte) : Function.Injective (crcByte · b) :=
  foldl_injective crcBit_injective (bitsOf b)

theorem crcBit_xor (c c' : Word) (d d' : Bool) : crcBit (c ^^^ c') (d ^^ d') = crcBit c d ^^^ crcBit c' d' := by
  refine BitVec.eq_of_getLsbD_eq fun i hi => ?_
  cases i with
  | zero =>
    simp only [crcBit_getLsbD_zero, BitVec.getLsbD_xor, Bool.xor_assoc, Bool.xor_left_comm]
  | succ i =>
    have hi' : i < 15 := by omega
    simp only [crcBit_getLsbD_succ _ _ hi', BitVec.getLsbD_xor, Bool.and_xor_distrib_right, Bool.xor_assoc,
      Bool.xor_left_comm]

theorem crcByte_xor (c c' : Word) (b b' : Byte) : crcByte (c ^^^ c') (b ^^^ b') = crcByte c b ^^^ crcByte c' b' := by
  simp only [crcByte_eq, BitVec.getLsbD_xor, crcBit_xor]

/-- A flipped bit of a byte shows in the register. -/
theorem crcByte_flip_ne (c : Word) (b : Byte) {k : Nat} (hk : k < 8) : crcByte c (b ^^^ 1#8 <<< k) ≠ crcByte c b := by
  have hsingle : ∀ k < 8, crcByte 0 (1#8 <<< k) ≠ 0 := by decide
  have hlinear : crcByte c (b ^^^ 1#8 <<< k) = crcByte c b ^^^ crcByte 0 (1#8 <<< k) := by
    rw [← crcByte_xor, show c ^^^ 0 = c from BitVec.xor_zero]
  rw [hlinear]
  simpa using hsingle k hk

/-- A flipped bit of a byte list shows in the register, whatever follows it. -/
theorem foldl_crcByte_flip_ne (bs : List Byte) (c : Word) {j k : Nat} (hj : j < bs.length) (hk : k < 8) :
    (bs.set j (bs[j] ^^^ 1#8 <<< k)).foldl crcByte c ≠ bs.foldl crcByte c := by
  induction bs generalizing c j with
  | nil => exact absurd hj (Nat.not_lt_zero j)
  | cons b bs ih =>
    cases j with
    | zero => exact (foldl_injective crcByte_injective bs).ne (crcByte_flip_ne c b hk)
    | succ j => exact ih (crcByte c b) (Nat.lt_of_succ_lt_succ hj)

theorem crc16_flip_ne (bs : List Byte) {j k : Nat} (hj : j < bs.length) (hk : k < 8) :
    crc16 (bs.set j (bs[j] ^^^ 1#8 <<< k)) ≠ crc16 bs :=
  foldl_crcByte_flip_ne bs crcInit hj hk

theorem word_eq_of_bytes {w w' : Word} (hlo : loByte w = loByte w') (hhi : hiByte w = hiByte w') : w = w' := by
  have hjoin : ∀ v : Word, hiByte v ++ loByte v = v := fun v => by
    unfold hiByte loByte
    rw [BitVec.extractLsb'_append_extractLsb'_eq_extractLsb' (by decide)]
    exact BitVec.extractLsb'_eq_self
  rw [← hjoin w, ← hjoin w', hlo, hhi]

/-! ### CheckFrame -/

theorem Memory.prefixBytes_succ (m : Memory) (n : Nat) : m.prefixBytes (n + 1) = m.prefixBytes n ++ [m.read n] := by
  simp [Memory.prefixBytes, List.range_succ]

theorem Memory.getElem_prefixBytes (m : Memory) {n j : Nat} (hj : j < (m.prefixBytes n).length) :
    (m.prefixBytes n)[j] = m.read j := by
  simp [Memory.prefixBytes]

/-- Settles O31: the verdicts inside and outside the guard on the length byte. -/
theorem checkFrameOutcome : Obligations.CheckFrameOutcome := by
  rintro m cap _ rfl
  refine ⟨m.checkFrame_badLen_iff cap, fun h3 hcap => ⟨m.checkFrame_matched_iff cap h3 hcap, ?_⟩⟩
  have hgood : m.checkFrame cap ≠ .badLen := fun hbad => by
    have := (m.checkFrame_badLen_iff cap).mp hbad
    unfold Memory.frameLen at this
    omega
  cases h : m.checkFrame cap <;> simp_all

/-- A buffer that gives MATCH passes the guard, and its last two bytes are its CRC. -/
theorem Memory.of_checkFrame_matched {m : Memory} {cap : Nat} (h : m.checkFrame cap = .matched) :
    3 ≤ m.frameLen ∧ m.frameLen ≤ cap ∧
      m.read (m.frameLen - 2) = loByte m.frameCrc ∧ m.read (m.frameLen - 1) = hiByte m.frameCrc := by
  have hlen : ¬(m.frameLen < 3 ∨ cap < m.frameLen) := by
    rw [← m.checkFrame_badLen_iff cap, h]
    decide
  rw [not_or, Nat.not_lt, Nat.not_lt] at hlen
  exact ⟨hlen.1, hlen.2, (m.checkFrame_matched_iff cap hlen.1 hlen.2).mp h⟩

/-- A frame with its CRC appended matches (41_crc.md R137(a)). -/
theorem Memory.checkFrame_of_crcAppended {m : Memory} {cap : Nat} {b : List Byte} (h3 : 3 ≤ m.frameLen)
    (hcap : m.frameLen ≤ cap) (hlen : b.length = m.frameLen - 2)
    (hbytes : m.prefixBytes m.frameLen = b ++ crcBytes (crc16 b)) : m.checkFrame cap = .matched := by
  obtain ⟨n, hn⟩ : ∃ n, m.frameLen = n + 2 := ⟨m.frameLen - 2, by omega⟩
  rw [hn] at hbytes hlen
  rw [m.prefixBytes_succ, m.prefixBytes_succ, List.append_assoc] at hbytes
  obtain ⟨hprefix, hcrc⟩ := List.append_inj hbytes (by rw [Memory.prefixBytes_length, hlen]; rfl)
  simp only [crcBytes, List.singleton_append, List.cons.injEq, and_true] at hcrc
  rw [m.checkFrame_matched_iff cap h3 hcap, Memory.frameCrc, hn]
  change m.read n = loByte (crc16 (m.prefixBytes n)) ∧ m.read (n + 1) = hiByte (crc16 (m.prefixBytes n))
  rwa [hprefix]

section
variable {m m' : Memory} {j k : Nat}

/-- The byte list of a buffer with one bit flipped. -/
theorem Memory.prefixBytes_flip {n : Nat} (hj : j < n)
    (hflip : ∀ x, m'.read x = if x = j then m.read x ^^^ 1#8 <<< k else m.read x) :
    m'.prefixBytes n = (m.prefixBytes n).set j ((m.prefixBytes n)[j]'(by simpa using hj) ^^^ 1#8 <<< k) := by
  refine List.ext_getElem (by simp) fun i _ _ => ?_
  simp only [List.getElem_set, Memory.getElem_prefixBytes, hflip, eq_comm (a := i)]
  split
  · next heq => rw [heq]
  · rfl

/-- A flipped bit past byte 0 breaks a match (41_crc.md R137(b)): below the CRC bytes it changes the recomputed CRC and
not the CRC bytes, and in them it is the other way round. -/
theorem Memory.checkFrame_flip {cap : Nat} (h : m.checkFrame cap = .matched) (hj : 1 ≤ j) (hjL : j < m.frameLen)
    (hk : k < 8) (hflip : ∀ x, m'.read x = if x = j then m.read x ^^^ 1#8 <<< k else m.read x) :
    m'.checkFrame cap = .mismatch := by
  obtain ⟨h3, hcap, hlo, hhi⟩ := Memory.of_checkFrame_matched h
  have hother : ∀ x, x ≠ j → m'.read x = m.read x := fun x hx => by rw [hflip, if_neg hx]
  have hlen : m'.frameLen = m.frameLen := congrArg BitVec.toNat (hother 0 (by omega))
  have hself : m'.read j ≠ m.read j := by
    have hbit : ∀ k < 8, 1#8 <<< k ≠ 0#8 := by decide
    rw [hflip, if_pos rfl]
    simpa using hbit k hk
  rw [m'.checkFrame_eq cap (hlen ▸ h3) (hlen ▸ hcap), hlen, if_neg]
  rintro ⟨hlo', hhi'⟩
  obtain hbelow | habove : j < m.frameLen - 2 ∨ m.frameLen - 2 ≤ j := by omega
  · rw [hother _ (by omega), hlo] at hlo'
    rw [hother _ (by omega), hhi] at hhi'
    have hcrc : m'.frameCrc ≠ m.frameCrc := by
      rw [Memory.frameCrc, Memory.frameCrc, hlen, Memory.prefixBytes_flip hbelow hflip]
      exact crc16_flip_ne _ _ hk
    exact hcrc (word_eq_of_bytes hlo' hhi').symm
  · have hcrc : m'.frameCrc = m.frameCrc := by
      rw [Memory.frameCrc, Memory.frameCrc, hlen]
      exact congrArg crc16 (m'.prefixBytes_congr m _ fun i hi => hother i (by omega))
    rw [hcrc] at hlo' hhi'
    obtain rfl | rfl : j = m.frameLen - 2 ∨ j = m.frameLen - 1 := by omega
    · exact hself (hlo'.trans hlo.symm)
    · exact hself (hhi'.trans hhi.symm)
end

/-- Settles O30: the two halves of R137 are `checkFrame_of_crcAppended` and `checkFrame_flip`. -/
theorem crcRoundTripAndSingleBit : Obligations.CrcRoundTripAndSingleBit := by
  refine ⟨fun m cap L b h3 hcap hlen hzero hL hbytes => ?_, fun m m' cap j k => Memory.checkFrame_flip⟩
  obtain rfl : m.frameLen = L := by rw [Memory.frameLen, hzero, BitVec.toNat_ofNat, Nat.mod_eq_of_lt hL]
  exact Memory.checkFrame_of_crcAppended h3 hcap hlen hbytes

/-! ### The operations -/

/-- Settles O39: an ARG_LEN up to TX_CAPACITY passes the check. -/
theorem crcComputeResult : Obligations.CrcComputeResult := fun _ hready hlen =>
  exec_of_legal hready (decide_eq_false (Nat.not_lt.mpr hlen))

/-- What TX reads as after the two CRC bytes are written inside the capacity. -/
theorem State.read_writeTxCrc_eq {s : State} {n : Nat} (c : Word) (hwf : s.tx.wf = true)
    (hn : n + 2 ≤ s.params.val.txCapacity) (k : Nat) : (s.writeTxCrc n c).tx.read k =
      if k = n then loByte c else if k = n + 1 then hiByte c else s.tx.read k := by
  rw [State.writeTxCrc_tx n c s hn, Memory.read_write _ _ _ _ (Memory.wf_write _ _ _ hwf),
    Memory.read_write _ _ _ _ hwf]
  split
  · next heq => rw [if_neg (by omega)]
  · rfl

/-- Settles O40: room for the two CRC bytes passes the check, and then both are written. -/
theorem crcAppendResult : Obligations.CrcAppendResult := by
  intro s hready hlen
  have hlegal : illegal .crcAppend s = false := decide_eq_false (Nat.not_lt.mpr hlen)
  refine ⟨_, _, rfl, ?_, fun hinv =>
    State.read_writeTxCrc_eq (s := Reference.started .crcAppend s) _ hinv.txWf hlen⟩
  rw [exec_of_legal hready hlegal, Reference.outcome, State.writeTxCrc_eq]
  rfl

/-- The result of a CRC check that passes its guard (41_crc.md R135, R136). -/
theorem checkResult_checkFrame {m : Memory} {cap : Nat} (h3 : 3 ≤ m.frameLen) (hcap : m.frameLen ≤ cap) :
    Reference.checkResult (m.checkFrame cap) =
      if m.read (m.frameLen - 2) = loByte m.frameCrc ∧ m.read (m.frameLen - 1) = hiByte m.frameCrc then .success
      else .badChecksum := by
  rw [m.checkFrame_eq cap h3 hcap]
  split <;> rfl

theorem lengthGuard_eq_false {L cap : Nat} (h3 : 3 ≤ L) (hcap : L ≤ cap) :
    (decide (L < 3) || decide (cap < L)) = false := by
  simp [h3, hcap]

/-- Settles O41: a length byte from 3 to RX_CAPACITY passes the check. -/
theorem crcCheckRxResult : Obligations.CrcCheckRxResult := by
  intro s hready h3 hcap
  refine ⟨s.rx.frameCrc, rfl, ?_⟩
  rw [exec_of_legal hready (i := .crcCheckRx) (lengthGuard_eq_false h3 hcap)]
  exact congrArg (fun r => Host.Outcome.next (Reference.completed r _)) (checkResult_checkFrame h3 hcap)

/-- Settles O42: a length byte from 3 to TX_CAPACITY passes the check. -/
theorem crcCheckTxResult : Obligations.CrcCheckTxResult := by
  intro s hready h3 hcap
  refine ⟨s.tx.frameCrc, rfl, ?_⟩
  rw [exec_of_legal hready (i := .crcCheckTx) (lengthGuard_eq_false h3 hcap)]
  exact congrArg (fun r => Host.Outcome.next (Reference.completed r _)) (checkResult_checkFrame h3 hcap)

/-- Settles O59: CRC_APPEND writes past the frame's bytes, so that the check recomputes the CRC that it finds. -/
theorem appendThenCheck : Obligations.AppendThenCheck := by
  intro s hinv hready hone hlen hframe
  obtain ⟨hactive, hreset, hhost⟩ := hready
  obtain ⟨c, m, hc, happend, hm⟩ := crcAppendResult s ⟨hactive, hreset, hhost⟩ hlen
  have hread := hm hinv
  have hzero : (m.read 0).toNat = s.argLen.toNat + 2 := by
    have hcap := (capacity_bounds s.params).1
    rw [hread, if_neg (by omega), if_neg (by omega), hframe, BitVec.toNat_add]
    exact Nat.mod_eq_of_lt (by simp; omega)
  have hprefix : m.prefixBytes s.argLen.toNat = s.tx.prefixBytes s.argLen.toNat :=
    m.prefixBytes_congr s.tx _ fun i hi => by rw [hread, if_neg (by omega), if_neg (by omega)]
  obtain ⟨c', hc', hcheck⟩ := crcCheckTxResult
    (Reference.completed .success { Reference.started .crcAppend s with crc := c, crcResult := c, tx := m })
    ⟨rfl, hreset, hhost⟩ (show 3 ≤ (m.read 0).toNat by omega) (hzero ▸ hlen)
  have hsame : c' = c := by
    rw [hc', hc]
    change crc16 (m.prefixBytes ((m.read 0).toNat - 2)) = crc16 (s.tx.prefixBytes s.argLen.toNat)
    rw [hzero, Nat.add_sub_cancel, hprefix]
  refine ⟨_, _, happend, hcheck, rfl, if_pos ?_, hsame, rfl⟩
  change m.read ((m.read 0).toNat - 2) = loByte c' ∧ m.read ((m.read 0).toNat - 1) = hiByte c'
  rw [hzero, hsame]
  change m.read s.argLen.toNat = loByte c ∧ m.read (s.argLen.toNat + 1) = hiByte c
  rw [hread, hread, if_pos rfl, if_neg (Nat.succ_ne_self _), if_pos rfl]
  exact ⟨rfl, rfl⟩

end Sys2Proof.Machine
end

section
/-! O32, O43, O44, O45, O46. The framer's operations in full are `exec_of_legal`: what is left to say is which operands
pass the parameter check. The four status bytes have a result each because a parameter set keeps them apart. -/

namespace Sys2Proof.Machine

/-! ### Status bytes -/

theorem statusBytes_distinct (p : WfParams) :
    p.val.stSuccess ≠ p.val.stParse ∧ p.val.stSuccess ≠ p.val.stExec ∧ p.val.stSuccess ≠ p.val.stComm ∧
      p.val.stParse ≠ p.val.stExec ∧ p.val.stParse ≠ p.val.stComm ∧ p.val.stExec ≠ p.val.stComm := by
  have h := p.property
  simp only [Params.wf, Params.statusDistinct, Bool.and_eq_true, bne_iff_ne, ne_eq, and_assoc] at h
  tauto

/-- Settles O32: each comparison of `statusResult` fails for the values tested after it. -/
theorem statusByteResult : Obligations.StatusByteResult := by
  intro p
  obtain ⟨hsp, hse, -, hpe, -, -⟩ := statusBytes_distinct p
  refine ⟨if_pos rfl, ?_, ?_, fun b hparse hexec hsuccess _ => ?_⟩
  · rw [statusResult, if_neg hpe.symm, if_pos rfl]
  · rw [statusResult, if_neg hsp, if_neg hse, if_pos rfl]
  · rw [statusResult, if_neg hparse, if_neg hexec, if_neg hsuccess]

/-! ### Operands that pass the parameter check -/

/-- The check of RECEIVE_FRAME and of RESYNC (60_exceptions.md R193). -/
theorem responseSize_legal {s : State} (h4 : 4 ≤ s.argRspSize.toNat)
    (hcap : s.argRspSize.toNat ≤ s.params.val.rxCapacity) :
    illegal .receiveFrame s = false ∧ illegal .resync s = false := by
  simp [illegal, h4, hcap]

/-- The check of SEND_AND_RECEIVE (42_framer.md R157). -/
theorem illegal_sendAndReceive_eq_false_iff (s : State) : illegal .sendAndReceive s = false ↔
    7 ≤ s.tx.frameLen ∧ s.tx.frameLen ≤ s.params.val.txCapacity ∧ 4 ≤ s.bound ∧
      s.bound ≤ s.params.val.rxCapacity := by
  simp only [illegal, Bool.or_eq_false_iff, decide_eq_false_iff_not, Nat.not_lt, and_assoc]
  rfl

theorem illegal_started (i j : Instr) (s : State) : illegal i (Reference.started j s) = illegal i s := by
  cases i <;> rfl

/-! ### The operations in full -/

/-- Settles O43: a legal ARG_RSP_SIZE passes the check. -/
theorem receiveFrameResult : Obligations.ReceiveFrameResult := fun _ hready h4 hcap =>
  ⟨_, _, Prod.mk.eta.symm, exec_of_legal hready (responseSize_legal h4 hcap).1⟩

/-- Settles O44: WAKEUP has no parameter check. -/
theorem wakeupResult : Obligations.WakeupResult := fun _ hready =>
  ⟨_, _, Prod.mk.eta.symm, exec_of_legal (i := .wakeup) hready rfl⟩

/-- Settles O45: a legal ARG_RSP_SIZE passes the check, and `resyncResult` turns the outcome into the code. -/
theorem resyncResult : Obligations.ResyncResult := fun _ hready h4 hcap =>
  ⟨_, _, Prod.mk.eta.symm, exec_of_legal hready (responseSize_legal h4 hcap).2⟩

/-- Settles O46: a legal command length and a legal ARG_RSP_SIZE pass the check. -/
theorem sendAndReceiveResult : Obligations.SendAndReceiveResult := fun s hready h7 htx h4 hrx =>
  ⟨_, _, Prod.mk.eta.symm, exec_of_legal hready ((illegal_sendAndReceive_eq_false_iff s).mpr ⟨h7, htx, h4, hrx⟩)⟩

end Sys2Proof.Machine
end

section
/-! O53, O54. How ReceiveFrame and Wakeup can end: the outcomes of ReceiveBytes, and the bytes in RX that are judged.
The length byte is judged once and stays, because what follows it is written behind it. -/

namespace Sys2Proof.Machine

theorem State.read_orRxBit_of_ne (s : State) (ix k : Nat) {j : Nat} (hj : j ≠ ix) :
    (s.orRxBit ix k).rx.read j = s.rx.read j := by
  rw [State.orRxBit, State.writeRx_rx]
  split
  · exact Memory.read_write_of_ne _ _ hj
  · rfl

theorem Memory.read_zero_eq_ofNat (m : Memory) : m.read 0 = BitVec.ofNat 8 m.frameLen :=
  (BitVec.ofNat_toNat 8 (m.read 0)).symm

theorem Memory.frameLen_congr {m m' : Memory} (h : m'.read 0 = m.read 0) : m'.frameLen = m.frameLen :=
  congrArg BitVec.toNat h

/-- A length byte that ReceiveFrame takes (30_encoding.md R78). -/
theorem State.lengthIllegal_eq_false {s : State} (h : s.lengthIllegal = false) :
    4 ≤ s.rx.frameLen ∧ s.rx.frameLen ≤ s.bound := by
  rw [← Bool.not_eq_true, State.lengthIllegal_iff] at h
  omega

/-- The verdict on a length byte depends on it and on ARG_RSP_SIZE only. -/
theorem State.lengthIllegal_congr {s t : State} (hread : t.rx.read 0 = s.rx.read 0)
    (hsize : t.argRspSize = s.argRspSize) : t.lengthIllegal = s.lengthIllegal := by
  unfold State.lengthIllegal Memory.frameLen State.bound
  rw [hread, hsize]

end Sys2Proof.Machine

namespace Sys2Proof.Reference

open Sys2Proof.Machine

/-! ### Bytes that ReceiveBytes does not write -/

theorem receiveBits_read_of_ne (ix n k : Nat) (s : State) {j : Nat} (hj : j ≠ ix) :
    (receiveBits ix n k s).2.rx.read j = s.rx.read j := by
  induction n generalizing k s with
  | zero => rfl
  | succ n ih =>
    obtain ⟨d, -, hbit⟩ := receiveBit_pass s
    rw [receiveBits]
    rcases hr : receiveBit s with ⟨r, t⟩
    rw [hr] at hbit
    subst hbit
    cases r with
    | timeout => rfl
    | zero => exact ih _ _
    | one => exact (ih _ _).trans (State.read_orRxBit_of_ne _ _ _ hj)

theorem receiveFrom_read_of_lt (off n i : Nat) (s : State) {j : Nat} (hj : j < off + i) :
    (receiveFrom off n i s).2.rx.read j = s.rx.read j := by
  induction n generalizing i s with
  | zero => rfl
  | succ n ih =>
    have hbits := receiveBits_read_of_ne (off + i) 8 0 s (Nat.ne_of_lt hj)
    rw [receiveFrom]
    rcases hr : receiveBits (off + i) 8 0 s with ⟨r, t⟩
    rw [hr] at hbits
    cases r with
    | false => exact hbits
    | true => exact (ih (i + 1) t (by omega)).trans hbits

theorem receiveBytes_read_of_lt (off n : Nat) (s : State) {j : Nat} (hj : j < off) :
    (receiveBytes off n s).2.rx.read j = s.rx.read j :=
  receiveFrom_read_of_lt off n 0 (s.setDrive .high) hj

/-! ### How ReceiveBytes ends, by its result -/

/-- The outcomes of ReceiveBytes from the first byte of RX on, of a frame or an answer no longer than RX. -/
theorem receiveBytes_zero_outcome {n : Nat} (hn : n < 256) (s : State) :
    ((receiveBytes 0 n s).1 = .success ∧ (receiveBytes 0 n s).2.rxCount = BitVec.ofNat 8 n) ∨
    ((receiveBytes 0 n s).1 = .rxTimeout ∧ (receiveBytes 0 n s).2.rxCount = 0) ∨
    ((receiveBytes 0 n s).1 = .rxPartial ∧ 1 ≤ (receiveBytes 0 n s).2.rxCount.toNat ∧
      (receiveBytes 0 n s).2.rxCount.toNat < n) := by
  obtain ⟨hok, hcount⟩ | ⟨j, hj, hfail, hcount⟩ := receiveBytes_outcome 0 n s
  · exact .inl ⟨hok, by rw [hcount, Nat.zero_add]⟩
  · rw [Nat.zero_add] at hfail hcount
    by_cases hzero : j = 0
    · subst hzero
      exact .inr (.inl ⟨hfail, hcount⟩)
    · have htoNat : (BitVec.ofNat 8 j).toNat = j := Nat.mod_eq_of_lt (by omega)
      rw [if_neg hzero] at hfail
      rw [hcount, htoNat]
      exact .inr (.inr ⟨hfail, by omega, hj⟩)

/-- The rest of a frame after its length byte: it never times out as a whole (40_transceiver.md R108). -/
theorem receiveRest_outcome {L : Nat} (h1 : 1 ≤ L) (hL : L < 256) (s : State) :
    ((receiveBytes 1 (L - 1) s).1 = .rxPartial ∧ 1 ≤ (receiveBytes 1 (L - 1) s).2.rxCount.toNat ∧
      (receiveBytes 1 (L - 1) s).2.rxCount.toNat < L) ∨
    ((receiveBytes 1 (L - 1) s).1 = .success ∧ (receiveBytes 1 (L - 1) s).2.rxCount = BitVec.ofNat 8 L) := by
  obtain ⟨hok, hcount⟩ | ⟨j, hj, hfail, hcount⟩ := receiveBytes_outcome 1 (L - 1) s
  · exact .inr ⟨hok, by rw [hcount, Nat.add_sub_cancel' h1]⟩
  · have htoNat : (BitVec.ofNat 8 (1 + j)).toNat = 1 + j := Nat.mod_eq_of_lt (by omega)
    rw [if_neg (by omega)] at hfail
    rw [hcount, htoNat]
    exact .inl ⟨hfail, by omega, by omega⟩

/-! ### ReceiveFrame -/

/-- The length byte of a frame, before it is judged (42_framer.md R152). -/
def receiveLength (s : State) : ResultCode × State :=
  receiveBytes 0 1 (sendBytes s.params.val.rxPrefix (s.zeroRx s.bound))

theorem receiveFrame_of_length_success {s : State} (h : (receiveLength s).1 = .success) : receiveFrame s =
    if (receiveLength s).2.lengthIllegal then (.invalidFrameSize, (receiveLength s).2)
    else receiveBytes 1 ((receiveLength s).2.rx.frameLen - 1) (receiveLength s).2 := by
  rw [receiveFrame, ← receiveLength]
  rcases hr : receiveLength s with ⟨r, t⟩
  rw [hr] at h
  cases h
  rfl

theorem receiveFrame_of_length_failed {s : State} (h : (receiveLength s).1 ≠ .success) :
    receiveFrame s = receiveLength s := by
  rw [receiveFrame, ← receiveLength]
  rcases hr : receiveLength s with ⟨r, t⟩
  rw [hr] at h
  cases r
  case success => exact absurd rfl h
  all_goals rfl

/-- The outcomes of ReceiveFrame (42_framer.md R152): what RX_COUNT and the length byte say with each result. -/
def FrameOutcome (r : ResultCode) (t : State) : Prop :=
  (r = .rxTimeout ∧ t.rxCount = 0) ∨
  (r = .invalidFrameSize ∧ t.rxCount = 1 ∧ t.lengthIllegal = true) ∨
  (t.lengthIllegal = false ∧
    ((r = .rxPartial ∧ 1 ≤ t.rxCount.toNat ∧ t.rxCount.toNat < t.rx.frameLen) ∨
      (r = .success ∧ t.rxCount = t.rx.read 0)))

/-- What follows a legal length byte leaves it in RX. -/
theorem frameOutcome_rest {s : State} (h : s.lengthIllegal = false) :
    FrameOutcome (receiveBytes 1 (s.rx.frameLen - 1) s).1 (receiveBytes 1 (s.rx.frameLen - 1) s).2 := by
  have hread : (receiveBytes 1 (s.rx.frameLen - 1) s).2.rx.read 0 = s.rx.read 0 :=
    receiveBytes_read_of_lt 1 _ s Nat.one_pos
  have hsize := (keeps_receiveBytes 1 (s.rx.frameLen - 1) s).argRspSize
  have h1 : 1 ≤ s.rx.frameLen := Nat.le_trans (by decide) (State.lengthIllegal_eq_false h).1
  refine .inr (.inr ⟨(State.lengthIllegal_congr hread hsize).trans h, ?_⟩)
  rw [Memory.frameLen_congr hread, hread, Memory.read_zero_eq_ofNat]
  exact receiveRest_outcome h1 (s.rx.read 0).isLt s

theorem receiveFrame_outcome (s : State) : FrameOutcome (receiveFrame s).1 (receiveFrame s).2 := by
  obtain ⟨hok, hcount⟩ | ⟨hfail, hcount⟩ | ⟨-, hone, hlt⟩ := receiveBytes_zero_outcome (n := 1) (by decide)
    (sendBytes s.params.val.rxPrefix (s.zeroRx s.bound))
  · rw [receiveFrame_of_length_success hok]
    split
    · next hbad => exact .inr (.inl ⟨rfl, hcount, hbad⟩)
    · next hgood => exact frameOutcome_rest (Bool.eq_false_iff.mpr hgood)
  · have hlength : (receiveLength s).1 = .rxTimeout := hfail
    rw [receiveFrame_of_length_failed (by rw [hlength]; decide)]
    exact .inl ⟨hlength, hcount⟩
  · exact absurd hlt (Nat.not_lt.mpr hone)

/-! ### Wakeup -/

/-- The answer to a wake pulse, before it is judged (42_framer.md R153). -/
def wakeAnswer (s : State) : ResultCode × State :=
  receiveBytes 0 4 (sendBytes s.params.val.rxPrefix ((wakePulse s).zeroRx 4))

theorem wakeup_fst (s : State) :
    (wakeup s).1 = wakeVerdict s.params.val (wakeAnswer s).1 (wakeAnswer s).2.rx := by
  rw [wakeup, wakeAnswer]
  dsimp only
  split <;> rfl

theorem wakeup_snd (s : State) : (wakeup s).2 =
    if (wakeup s).1 = .success then setComm .awakeSynced (wakeAnswer s).2
    else (setComm .unknownAsleep (wakeAnswer s).2).pass s.params.val.tMaxExecDelay := by
  rw [wakeup_fst, wakeup, wakeAnswer]
  dsimp only
  split <;> rfl

theorem wakeup_rx (s : State) : (wakeup s).2.rx = (wakeAnswer s).2.rx := by
  rw [wakeup_snd]
  generalize wakeAnswer s = a
  split <;> rfl

theorem wakeup_rxCount (s : State) : (wakeup s).2.rxCount = (wakeAnswer s).2.rxCount := by
  rw [wakeup_snd]
  generalize wakeAnswer s = a
  split <;> rfl

/-- The outcomes of Wakeup (42_framer.md R153). -/
theorem wakeup_outcome (s : State) :
    ((wakeup s).1 = .rxTimeout ∧ (wakeup s).2.rxCount = 0) ∨
    ((wakeup s).1 = .rxPartial ∧ 1 ≤ (wakeup s).2.rxCount.toNat ∧ (wakeup s).2.rxCount.toNat < 4) ∨
    ((wakeup s).2.rxCount = 4 ∧ (wakeup s).1 = wakeVerdict s.params.val .success (wakeup s).2.rx) := by
  rw [wakeup_rxCount, wakeup_rx, wakeup_fst]
  obtain ⟨hok, hcount⟩ | ⟨hfail, hcount⟩ | ⟨hfail, hcount⟩ :=
    receiveBytes_zero_outcome (n := 4) (by decide) (sendBytes s.params.val.rxPrefix ((wakePulse s).zeroRx 4))
  · exact .inr (.inr ⟨hcount, congrArg (wakeVerdict s.params.val · _) hok⟩)
  · exact .inl ⟨congrArg (wakeVerdict s.params.val · _) hfail, hcount⟩
  · exact .inr (.inl ⟨congrArg (wakeVerdict s.params.val · _) hfail, hcount⟩)

end Sys2Proof.Reference

namespace Sys2Proof.Machine

/-- The checks of a wake response that came in full, on its bytes. -/
theorem wakeVerdict_success (p : Params) (m : Memory) : wakeVerdict p .success m =
    if m.read 0 ≠ 4 then .commFailure
    else if m.read 1 ≠ p.wakeAck then .commFailure
    else if m.read 2 ≠ p.wakeSigLo ∨ m.read 3 ≠ p.wakeSigHi then .badChecksum
    else .success := by
  have hlen : m.frameLen ≠ 4 ↔ m.read 0 ≠ 4 := not_congr (BitVec.toNat_eq (x := m.read 0) (y := 4)).symm
  simp only [wakeVerdict, ne_eq, not_true_eq_false, if_false]
  simp only [← ne_eq, hlen]

theorem State.lengthIllegal_of_bound {s : State} {n : Nat} (hn : s.bound = n) (h : s.lengthIllegal = true) :
    s.rx.read 0 = 0xFF ∨ (s.rx.read 0).toNat < 4 ∨ n < (s.rx.read 0).toNat := by
  rw [State.lengthIllegal_iff, hn] at h
  exact h.imp_left fun hff => BitVec.eq_of_toNat_eq hff

/-- Settles O53: RECEIVE_FRAME ends as ReceiveFrame does, with the verdict on the length byte written out. -/
theorem receiveFrameOutcome : Obligations.ReceiveFrameOutcome := by
  intro s t _ hready h4 hcap hexec
  obtain ⟨r, u, hr, hend⟩ := receiveFrameResult s hready h4 hcap
  rw [hend] at hexec
  cases hexec
  have hout := Reference.receiveFrame_outcome (Reference.started .receiveFrame s)
  have hsize := (Reference.keeps_receiveFrame (Reference.started .receiveFrame s)).argRspSize
  rw [hr] at hout hsize
  have hbound : u.bound = s.argRspSize.toNat := congrArg BitVec.toNat hsize
  obtain hsilent | ⟨hres, hcount, hbad⟩ | ⟨hgood, hwhole⟩ := hout
  · exact .inl hsilent
  · exact .inr (.inl ⟨hres, hcount, State.lengthIllegal_of_bound hbound hbad⟩)
  · obtain ⟨hlow, hhigh⟩ := State.lengthIllegal_eq_false hgood
    rw [hbound] at hhigh
    exact .inr (.inr ⟨hlow, hhigh, hwhole⟩)

/-- Settles O54: WAKEUP ends as Wakeup does, with the verdict on the answer written out. -/
theorem wakeupOutcome : Obligations.WakeupOutcome := by
  intro s t hready hexec
  obtain ⟨r, u, hr, hend⟩ := wakeupResult s hready
  rw [hend] at hexec
  cases hexec
  have h := Reference.wakeup_outcome (Reference.started .wakeup s)
  rw [hr, wakeVerdict_success] at h
  exact h

end Sys2Proof.Machine
end

section
/-! O50, O51. Whatever the primitives of the receiving procedures keep wherever they write, ReceiveFrame and the
operations that cannot resynchronise keep: STATUS and COMM_STATE are such. Wakeup and Resync then say what becomes of
them by their outcome, and the loops of SEND_AND_RECEIVE end with COMM_STATE as their last Resync or their last frame
left it. -/

namespace Sys2Proof.Reference

open Sys2Proof.Machine

theorem one_le_nRecvAttempts (p : WfParams) : 1 ≤ p.val.nRecvAttempts := by
  have h := p.property
  simp only [Params.wf, Bool.and_eq_true, decide_eq_true_eq] at h
  omega

/-! ### What the primitives keep -/

section
variable {P : State → Prop}

theorem receiveFrame_keeps (hP : ∀ n, ReceiveKeeps n P) {s : State} (h : P s) : P (receiveFrame s).2 := by
  have hzero := (hP s.bound).zeroRx s s.bound (Nat.le_refl _) h
  have hfirst : P (receiveLength s).2 :=
    (hP 1).receiveBytes 0 1 (Nat.le_refl 1) ((hP 1).sendBytes s.params.val.rxPrefix hzero)
  by_cases hok : (receiveLength s).1 = .success
  · rw [receiveFrame_of_length_success hok]
    split
    · exact hfirst
    · exact (hP _).receiveBytes 1 _ (Nat.le_refl _) hfirst
  · rw [receiveFrame_of_length_failed hok]
    exact hfirst

theorem pollReceive_keeps (hP : ∀ n, ReceiveKeeps n P) (n : Nat) {s : State} (h : P s) : P (pollReceive n s).2 := by
  induction n generalizing s with
  | zero => exact h
  | succ n ih =>
    have hframe := receiveFrame_keeps hP h
    rw [pollReceive]
    rcases hr : receiveFrame s with ⟨r, t⟩
    rw [hr] at hframe
    cases r
    case rxTimeout =>
      dsimp only
      split
      · exact ih ((hP 0).pass _ _ hframe)
      · exact ih hframe
    all_goals exact hframe

/-- An operation that cannot resynchronise keeps what the primitives keep. -/
theorem outcome_keeps {i : Instr} (hi : canLoseSession i = false) (hP : ∀ n, ReceiveKeeps n P)
    (hcrc : ∀ s c, P s → P (s.storeCrc c)) (htx : ∀ s n c, P s → P (s.writeTxCrc n c))
    (hcomm : writesCommState i = true → ∀ s c, P s → P (setComm c s)) {b : State} (h : P b) : P (outcome i b).2 := by
  cases i with
  | setSignal => exact (hP 0).setDrive _ _ h
  | sendBytes => exact (hP 0).sendBytes _ h
  | receiveBytes =>
    exact (hP b.len).receiveBytes 0 _ (Nat.le_of_eq (Nat.zero_add _)) ((hP _).zeroRx _ _ (Nat.le_refl _) h)
  | wakePulse => exact (hP 0).wakePulse h
  | sleepByte => exact hcomm rfl _ _ ((hP 0).sendBytes _ h)
  | crcCompute => exact hcrc _ _ h
  | crcAppend => exact hcrc _ _ (htx _ _ _ h)
  | crcCheckRx => exact hcrc _ _ h
  | crcCheckTx => exact hcrc _ _ h
  | receiveFrame => exact receiveFrame_keeps hP h
  | wakeup => exact (hP 4).wakeup (Nat.le_refl 4) (hcomm rfl) h
  | resync => cases hi
  | sendAndReceive => cases hi
end

theorem receiveKeeps_status (v : Status) (n : Nat) : ReceiveKeeps n (·.status = v) where
  pass _ _ h := h
  setDrive _ _ h := h
  zeroRx _ _ _ h := h
  orRxBit s ix k _ h := (State.orRxBit_status ix k s).trans h
  setRxCount _ _ h := h

theorem receiveKeeps_commState (c : CommState) (n : Nat) : ReceiveKeeps n (·.commState = c) where
  pass _ _ h := h
  setDrive _ _ h := h
  zeroRx _ _ _ h := h
  orRxBit s ix k _ h := (State.orRxBit_commState ix k s).trans h
  setRxCount _ _ h := h

theorem outcome_status {i : Instr} (hi : canLoseSession i = false) (b : State) : (outcome i b).2.status = b.status :=
  outcome_keeps hi (receiveKeeps_status b.status) (fun _ _ h => h)
    (fun s n c h => (State.writeTxCrc_status n c s).trans h) (fun _ _ _ h => h) rfl

theorem outcome_commState {i : Instr} (hi : writesCommState i = false) (b : State) :
    (outcome i b).2.commState = b.commState := by
  have hlose : canLoseSession i = false :=
    Bool.eq_false_iff.mpr fun h => Bool.eq_false_iff.mp hi (writesCommState_of_canLoseSession i h)
  exact outcome_keeps hlose (receiveKeeps_commState b.commState) (fun _ _ h => h)
    (fun s n c h => (State.writeTxCrc_commState n c s).trans h) (fun h => absurd h (Bool.eq_false_iff.mp hi)) rfl

theorem receiveFrame_status (s : State) : (receiveFrame s).2.status = s.status :=
  receiveFrame_keeps (receiveKeeps_status s.status) rfl

theorem pollReceive_status (n : Nat) (s : State) : (pollReceive n s).2.status = s.status :=
  pollReceive_keeps (receiveKeeps_status s.status) n rfl

theorem wakeup_status (s : State) : (wakeup s).2.status = s.status :=
  (receiveKeeps_status s.status 4).wakeup (Nat.le_refl 4) (fun _ _ h => h) rfl

theorem sendBytes_status (bs : List Byte) (s : State) : (sendBytes bs s).status = s.status :=
  (receiveKeeps_status s.status 0).sendBytes bs rfl

theorem transmit_status (s : State) : (transmit s).status = s.status :=
  sendBytes_status _ s

/-! ### Wakeup and Resync -/

theorem wakeup_commState (s : State) :
    (wakeup s).2.commState = if (wakeup s).1 = .success then .awakeSynced else .unknownAsleep := by
  rw [wakeup_snd]
  split <;> rfl

/-- What the outcome `r` of a Resync called in the state `s` says of the state it leaves (42_framer.md R154). -/
structure ResyncLeaves (s t : State) (r : ResyncOutcome) : Prop where
  commState : t.commState = if r = .unreachable then .unknownAsleep else .awakeSynced
  sessionLost : t.status.sessionLost = true ↔ s.status.sessionLost = true ∨ r = .rewoken

theorem ResyncLeaves.of_status {s t u : State} {r : ResyncOutcome} (h : ResyncLeaves t u r)
    (hst : t.status = s.status) : ResyncLeaves s u r :=
  ⟨h.commState, hst ▸ h.sessionLost⟩

theorem rewake_leaves (s : State) : ResyncLeaves s (rewake s).2 (rewake s).1 := by
  have hstatus := (wakeup_status (setComm .unknownAsleep (sendBytes [s.params.val.sleepByte] s))).trans
    (sendBytes_status _ s)
  have hcomm := wakeup_commState (setComm .unknownAsleep (sendBytes [s.params.val.sleepByte] s))
  rw [rewake]
  rcases hw : wakeup (setComm .unknownAsleep (sendBytes [s.params.val.sleepByte] s)) with ⟨w, t⟩
  rw [hw] at hstatus hcomm
  dsimp only at hstatus hcomm
  cases w
  case success => exact ⟨hcomm, by simp [loseSession]⟩
  all_goals exact ⟨hcomm, by simp [hstatus]⟩

theorem resync_leaves (s : State) : ResyncLeaves s (resync s).2 (resync s).1 := by
  have hstatus : (receiveFrame (s.pass s.params.val.tSyncTimeout)).2.status = s.status := receiveFrame_status _
  rw [resync]
  rcases hr : receiveFrame (s.pass s.params.val.tSyncTimeout) with ⟨r, t⟩
  rw [hr] at hstatus
  dsimp only at hstatus
  cases r
  case success => exact ⟨rfl, by simp [setComm, hstatus]⟩
  all_goals exact (rewake_leaves t).of_status hstatus

/-! ### The loops of SEND_AND_RECEIVE: COMM_STATE -/

/-- COMM_STATE after an inner loop: the device is out of reach, or a Resync or a frame was good. -/
def endComm (e : Option LoopEnd) : CommState :=
  if e = some (.finished .fatalCommFailure) then .unknownAsleep else .awakeSynced

theorem statusResult_ne_fatal (p : Params) (b : Byte) : statusResult p b ≠ .fatalCommFailure := by
  unfold statusResult
  repeat' split
  all_goals decide

theorem takeFrame_ne_fatal (s : State) : takeFrame s ≠ .finished .fatalCommFailure := by
  unfold takeFrame
  repeat' split
  · decide
  · decide
  · simp [statusResult_ne_fatal]

@[simp] theorem recover_snd (s : State) : (recover s).2 = (resync s).2 := by
  rw [recover]
  rcases resync s with ⟨_ | _ | _, t⟩ <;> rfl

@[simp] theorem recoverAndResend_snd (s : State) : (recoverAndResend s).2 = (resync s).2 := by
  rw [recoverAndResend]
  rcases resync s with ⟨_ | _ | _, t⟩ <;> rfl

theorem recover_commState (s : State) : (recover s).2.commState = endComm (recover s).1 := by
  have hcomm := (resync_leaves s).commState
  rw [recover]
  rcases hr : resync s with ⟨r, t⟩
  rw [hr] at hcomm
  cases r <;> exact hcomm

theorem recoverAndResend_commState (s : State) :
    (recoverAndResend s).2.commState = endComm (some (recoverAndResend s).1) := by
  have hcomm := (resync_leaves s).commState
  rw [recoverAndResend]
  rcases hr : resync s with ⟨r, t⟩
  rw [hr] at hcomm
  cases r <;> exact hcomm

theorem receiveOnce_commState (s : State) : (receiveOnce s).2.commState = endComm (receiveOnce s).1 := by
  rw [receiveOnce]
  rcases pollReceive s.nPoll s with ⟨r, t⟩
  cases r
  case rxTimeout => exact recoverAndResend_commState t
  case success =>
    dsimp only
    split
    · rw [endComm, if_neg (by simp [takeFrame_ne_fatal])]
      rfl
    · exact recover_commState _
  all_goals exact recover_commState t

/-- An inner loop of at least one iteration, or one that is entered with the device awake. -/
theorem receiveRetry_commState (n : Nat) {s : State} (h : n = 0 → s.commState = .awakeSynced) :
    (receiveRetry n s).2.commState = endComm (some (receiveRetry n s).1) := by
  induction n generalizing s with
  | zero => exact h rfl
  | succ n ih =>
    have honce := receiveOnce_commState s
    rw [receiveRetry]
    rcases hr : receiveOnce s with ⟨e, t⟩
    rw [hr] at honce
    cases e with
    | none => exact ih fun _ => honce
    | some e => exact honce

theorem endComm_resend (e : Escalation) : endComm (some (.resend e)) = .awakeSynced := by
  cases e <;> rfl

theorem endComm_finished (c : ResultCode) :
    endComm (some (.finished c)) = if c = .fatalCommFailure then .unknownAsleep else .awakeSynced := by
  simp [endComm]

/-- The outer loop ends with the device awake, or out of reach and the result FATAL_COMM_FAILURE. -/
theorem sendRetry_commState (n : Nat) (e : Escalation) {s : State} (h : n = 0 → s.commState = .awakeSynced) :
    (sendRetry n e s).2.commState = .awakeSynced ∨
      (sendRetry n e s).2.commState = .unknownAsleep ∧ (sendRetry n e s).1 = .fatalCommFailure := by
  induction n generalizing e s with
  | zero => cases e <;> exact .inl (h rfl)
  | succ n ih =>
    have hrecv := one_le_nRecvAttempts s.params
    have hretry := receiveRetry_commState s.params.val.nRecvAttempts (s := transmit s) (by omega)
    rw [sendRetry]
    rcases hr : receiveRetry s.params.val.nRecvAttempts (transmit s) with ⟨e, t⟩
    rw [hr] at hretry
    cases e with
    | finished c =>
      rw [endComm_finished] at hretry
      split at hretry
      · next hc => exact .inr ⟨hretry, hc⟩
      · exact .inl hretry
    | resend e => exact ih e fun _ => hretry.trans (endComm_resend e)

/-! ### The loops of SEND_AND_RECEIVE: SESSION_LOST -/

/-- SESSION_LOST is set after a procedure that starts in `s` and calls Resync in the states `us`, exactly when it was
set before or a call returns REWOKEN (42_framer.md R159). -/
def LosesBy (us : List State) (s t : State) : Prop :=
  t.status.sessionLost = true ↔ s.status.sessionLost = true ∨ ∃ u ∈ us, (resync u).1 = .rewoken

theorem LosesBy.of_status {s t : State} (h : t.status = s.status) : LosesBy [] s t := by
  simp [LosesBy, h]

theorem LosesBy.resync (s : State) : LosesBy [s] s (resync s).2 := by
  simpa [LosesBy] using (resync_leaves s).sessionLost

theorem LosesBy.trans {us vs : List State} {s t u : State} (h : LosesBy us s t) (k : LosesBy vs t u) :
    LosesBy (us ++ vs) s u := by
  unfold LosesBy at h k ⊢
  rw [k, h]
  simp [or_assoc, or_and_right, exists_or]

theorem receiveOnce_losesBy (s : State) : LosesBy (resyncOfOnce s) s (receiveOnce s).2 := by
  have hpoll := LosesBy.of_status (pollReceive_status s.nPoll s)
  rw [resyncOfOnce, receiveOnce]
  rcases hr : pollReceive s.nPoll s with ⟨r, t⟩
  rw [hr] at hpoll
  have hrecover : ∀ u, u.status = t.status → LosesBy [u] s (recover u).2 := fun u hu => by
    rw [recover_snd]
    exact (hpoll.trans (.of_status hu)).trans (.resync u)
  cases r
  case rxTimeout =>
    dsimp only
    rw [recoverAndResend_snd]
    exact hpoll.trans (.resync t)
  case success =>
    dsimp only
    split
    · exact hpoll
    · exact hrecover _ rfl
  all_goals exact hrecover t rfl

theorem receiveRetry_losesBy (n : Nat) (s : State) : LosesBy (resyncsOfRetry n s) s (receiveRetry n s).2 := by
  induction n generalizing s with
  | zero => exact .of_status rfl
  | succ n ih =>
    have honce := receiveOnce_losesBy s
    rw [resyncsOfRetry, receiveRetry]
    rcases hr : receiveOnce s with ⟨e, t⟩
    rw [hr] at honce
    cases e with
    | none => exact honce.trans (ih t)
    | some e => exact honce.trans (.of_status rfl)

theorem sendRetry_losesBy (n : Nat) (e : Escalation) (s : State) :
    LosesBy (resyncsOfSend n s) s (sendRetry n e s).2 := by
  induction n generalizing e s with
  | zero => cases e <;> exact .of_status rfl
  | succ n ih =>
    have hretry : LosesBy (resyncsOfRetry s.params.val.nRecvAttempts (transmit s)) s
        (receiveRetry s.params.val.nRecvAttempts (transmit s)).2 :=
      (LosesBy.of_status (transmit_status s)).trans (receiveRetry_losesBy _ _)
    rw [resyncsOfSend, sendRetry]
    rcases hr : receiveRetry s.params.val.nRecvAttempts (transmit s) with ⟨e, t⟩
    rw [hr] at hretry
    cases e with
    | finished c => exact hretry.trans (.of_status rfl)
    | resend e => exact hretry.trans (ih e t)

end Sys2Proof.Reference
end

section
/-! O55. The frame behind the end of a loop of SEND_AND_RECEIVE: a loop ends without one only if the device is out of
reach, and escalates only on the status ST_COMM of the last one. Nothing after `appendCrc` writes TX or CRC_RESULT. -/

namespace Sys2Proof.Reference

open Sys2Proof.Machine

/-! ### The frame in RX -/

/-- RX holds a frame of a legal length, and its CRC matches (42_framer.md R157, step 5). -/
def GoodFrame (s : State) : Prop := s.lengthIllegal = false ∧ s.rx.checkFrame s.bound = .matched

/-- The result a good frame stands for (42_framer.md R156, R157 step 6, R158). -/
def frameResult (s : State) : ResultCode :=
  if 4 < s.rx.frameLen then .success
  else if s.rx.read 1 = s.params.val.stComm then .deviceCommStatus
  else statusResult s.params.val (s.rx.read 1)

/-- How a loop of SEND_AND_RECEIVE can end, and what is then in RX. -/
inductive Ends : LoopEnd → State → Prop
  | unreachable (t : State) : Ends (.finished .fatalCommFailure) t
  | again (t : State) : Ends (.resend .none) t
  | frame {t : State} : GoodFrame t → Ends (.finished (frameResult t)) t
  | escalate {t : State} : GoodFrame t → frameResult t = .deviceCommStatus → Ends (.resend .deviceCommStatus) t

/-- A good frame that is taken. -/
theorem takeFrame_ends {s : State} (h : GoodFrame s) : Ends (takeFrame s) s := by
  have hframe := Ends.frame h
  unfold takeFrame
  unfold frameResult at hframe
  split
  · next hlong =>
    rw [if_pos hlong] at hframe
    exact hframe
  · next hshort =>
    rw [if_neg hshort] at hframe
    split
    · next hcomm => exact .escalate h (by rw [frameResult, if_neg hshort, if_pos hcomm])
    · next hother =>
      rw [if_neg hother] at hframe
      exact hframe

/-! ### What the loops leave in RX -/

theorem receiveFrame_success {s : State} (h : (receiveFrame s).1 = .success) :
    (receiveFrame s).2.lengthIllegal = false := by
  obtain ⟨hres, -⟩ | ⟨hres, -⟩ | ⟨hgood, -⟩ := receiveFrame_outcome s
  · rw [hres] at h
    cases h
  · rw [hres] at h
    cases h
  · exact hgood

theorem pollReceive_success (n : Nat) {s : State} (h : (pollReceive n s).1 = .success) :
    (pollReceive n s).2.lengthIllegal = false := by
  induction n generalizing s with
  | zero => cases h
  | succ n ih =>
    have hframe := receiveFrame_success (s := s)
    rw [pollReceive] at h ⊢
    rcases hr : receiveFrame s with ⟨r, t⟩
    rw [hr] at hframe h
    cases r
    case success => exact hframe rfl
    case rxTimeout => exact ih h
    all_goals cases h

theorem recover_ends {s : State} {e : LoopEnd} (h : (recover s).1 = some e) : Ends e (recover s).2 := by
  rw [recover] at h ⊢
  rcases hr : resync s with ⟨r, t⟩
  rw [hr] at h
  cases r <;> cases h
  case rewoken => exact .again t
  case unreachable => exact .unreachable t

theorem recoverAndResend_ends (s : State) : Ends (recoverAndResend s).1 (recoverAndResend s).2 := by
  rw [recoverAndResend]
  rcases resync s with ⟨r, t⟩
  cases r
  case unreachable => exact .unreachable t
  all_goals exact .again t

theorem receiveOnce_ends {s : State} {e : LoopEnd} (h : (receiveOnce s).1 = some e) : Ends e (receiveOnce s).2 := by
  have hpoll := pollReceive_success s.nPoll (s := s)
  rw [receiveOnce] at h ⊢
  rcases hr : pollReceive s.nPoll s with ⟨r, t⟩
  rw [hr] at hpoll h
  cases r
  case rxTimeout =>
    cases h
    exact recoverAndResend_ends t
  case success =>
    dsimp only at h ⊢
    split at h
    · next hmatch =>
      cases h
      rw [if_pos hmatch]
      exact takeFrame_ends (s := setComm .awakeSynced (Action.run .checkFrame t)) ⟨hpoll rfl, hmatch⟩
    · next hbad =>
      rw [if_neg hbad]
      exact recover_ends h
  all_goals exact recover_ends h

theorem receiveRetry_ends (n : Nat) (s : State) : Ends (receiveRetry n s).1 (receiveRetry n s).2 := by
  induction n generalizing s with
  | zero => exact .again s
  | succ n ih =>
    have honce := fun e => receiveOnce_ends (s := s) (e := e)
    rw [receiveRetry]
    rcases hr : receiveOnce s with ⟨e, t⟩
    rw [hr] at honce
    cases e with
    | none => exact ih t
    | some e => exact honce e rfl

/-- SEND_AND_RECEIVE's outer loop, entered after an iteration that ended with `e`. -/
theorem sendRetry_result (n : Nat) {e : Escalation} {s : State} (h : Ends (.resend e) s) :
    (sendRetry n e s).1 = .fatalCommFailure ∨
      GoodFrame (sendRetry n e s).2 ∧ (sendRetry n e s).1 = frameResult (sendRetry n e s).2 := by
  induction n generalizing e s with
  | zero =>
    cases h with
    | again => exact .inl rfl
    | escalate hgood hcomm => exact .inr ⟨hgood, hcomm.symm⟩
  | succ n ih =>
    have hretry := receiveRetry_ends s.params.val.nRecvAttempts (transmit s)
    rw [sendRetry]
    rcases hr : receiveRetry s.params.val.nRecvAttempts (transmit s) with ⟨e, t⟩
    rw [hr] at hretry
    dsimp only at hretry
    cases e with
    | resend e => exact ih hretry
    | finished c =>
      cases hretry with
      | unreachable => exact .inl rfl
      | frame hgood => exact .inr ⟨hgood, rfl⟩

theorem sendAndReceive_result (s : State) : (sendAndReceive s).1 = .fatalCommFailure ∨
    GoodFrame (sendAndReceive s).2 ∧ (sendAndReceive s).1 = frameResult (sendAndReceive s).2 :=
  sendRetry_result _ (.again _)

/-! ### The CRC of the command frame -/

/-- Appending the CRC writes TX, CRC_RESULT and the internal register. -/
theorem appendCrc_eq (s : State) : appendCrc s =
    { s with
      tx := (s.writeTxCrc (s.tx.frameLen - 2) s.tx.frameCrc).tx
      crc := s.tx.frameCrc
      crcResult := s.tx.frameCrc } := by
  rw [appendCrc, State.writeTxCrc_eq]
  rfl

theorem keeps_sendAndReceive (s : State) : Keeps (appendCrc s) (sendAndReceive s).2 := keeps_sendRetry _ _ _

/-- TX after an exchange: the two bytes of the CRC, and the rest as before. -/
theorem sendAndReceive_tx_read {s : State} (hwf : s.tx.wf = true) (h2 : 2 ≤ s.tx.frameLen)
    (hcap : s.tx.frameLen ≤ s.params.val.txCapacity) (k : Nat) : (sendAndReceive s).2.tx.read k =
      if k = s.tx.frameLen - 2 then loByte s.tx.frameCrc
      else if k = s.tx.frameLen - 1 then hiByte s.tx.frameCrc
      else s.tx.read k := by
  have hwrite := State.read_writeTxCrc_eq (n := s.tx.frameLen - 2) s.tx.frameCrc hwf (by omega) k
  rw [show s.tx.frameLen - 2 + 1 = s.tx.frameLen - 1 by omega] at hwrite
  rw [(keeps_sendAndReceive s).tx]
  exact hwrite

end Sys2Proof.Reference

namespace Sys2Proof.Machine

/-- A good frame as its bytes say it, under the bound `R`. -/
theorem goodFrame_bytes {u : State} {R : Nat} (hR : u.bound = R) (h : Reference.GoodFrame u) :
    4 ≤ (u.rx.read 0).toNat ∧ (u.rx.read 0).toNat ≤ R ∧ u.rx.checkFrame R = .matched := by
  obtain ⟨hlen, hmatch⟩ := h
  obtain ⟨hlow, hhigh⟩ := State.lengthIllegal_eq_false hlen
  rw [hR] at hhigh hmatch
  exact ⟨hlow, hhigh, hmatch⟩

/-- The result of a good frame by its length: data, or a status byte. -/
theorem frameResult_bytes {u : State} {p : WfParams} (hp : u.params = p) :
    (4 < (u.rx.read 0).toNat → Reference.frameResult u = .success) ∧
    ((u.rx.read 0).toNat = 4 → Reference.frameResult u =
      if u.rx.read 1 = p.val.stComm then .deviceCommStatus else statusResult p.val (u.rx.read 1)) := by
  subst hp
  exact ⟨fun h => if_pos h, fun h => if_neg (Nat.not_lt.mpr (Nat.le_of_eq h))⟩

/-- Settles O55: TX and CRC_RESULT are those of `appendCrc`, and the frame is the one behind the result. -/
theorem sendAndReceiveOutcome : Obligations.SendAndReceiveOutcome := by
  intro s t hinv hready hlegal hexec
  obtain ⟨h7, htx, h4, hrx⟩ := (illegal_sendAndReceive_eq_false_iff s).mp hlegal
  obtain ⟨r, u, hr, hend⟩ := sendAndReceiveResult s hready h7 htx h4 hrx
  rw [hend] at hexec
  cases hexec
  have hkeeps := Reference.keeps_sendAndReceive (Reference.started .sendAndReceive s)
  have hread := Reference.sendAndReceive_tx_read (s := Reference.started .sendAndReceive s) hinv.txWf
    (Nat.le_trans (by decide) h7) htx
  have hresult := Reference.sendAndReceive_result (Reference.started .sendAndReceive s)
  rw [hr] at hkeeps hread hresult
  rw [Reference.appendCrc_eq] at hkeeps
  have hcrc : u.crcResult = s.tx.frameCrc := hkeeps.crcResult
  have hbound : u.bound = s.argRspSize.toNat := congrArg BitVec.toNat hkeeps.argRspSize
  have hlow : u.tx.read (s.tx.frameLen - 2) = loByte u.crcResult := hcrc ▸ (hread _).trans (if_pos rfl)
  have hhigh : u.tx.read (s.tx.frameLen - 1) = hiByte u.crcResult :=
    hcrc ▸ (hread _).trans ((if_neg (show s.tx.frameLen - 1 ≠ s.tx.frameLen - 2 by omega)).trans (if_pos rfl))
  refine ⟨hcrc, hlow, hhigh, fun hne => ?_⟩
  obtain hfatal | ⟨hgood, hres⟩ := hresult
  · exact absurd hfatal hne
  · obtain ⟨hmin, hmax, hmatch⟩ := goodFrame_bytes hbound hgood
    obtain ⟨hdata, hstatus⟩ := frameResult_bytes (u := u) hkeeps.params
    exact ⟨hmin, hmax, hmatch, fun h => hres.trans (hdata h), fun h => hres.trans (hstatus h)⟩

end Sys2Proof.Machine
end

section
/-! O50, O51. The results an operation can end with, and COMM_STATE and SESSION_LOST of an operation as what its
procedure leaves of them. -/

namespace Sys2Proof.Machine

/-! ### Results -/

theorem wakeVerdict_success_mem (p : Params) (m : Memory) :
    wakeVerdict p .success m ∈ allowedResults .wakeup := by
  rw [wakeVerdict_success]
  repeat' split
  all_goals decide

theorem statusResult_mem (p : Params) (b : Byte) : statusResult p b ∈ allowedResults .sendAndReceive := by
  unfold statusResult
  repeat' split
  all_goals decide

theorem frameResult_mem (s : State) : Reference.frameResult s ∈ allowedResults .sendAndReceive := by
  unfold Reference.frameResult
  repeat' split
  · decide
  · decide
  · exact statusResult_mem _ _

theorem checkResult_mem (c : CheckOutcome) :
    Reference.checkResult c ∈ allowedResults .crcCheckRx ∧ Reference.checkResult c ∈ allowedResults .crcCheckTx := by
  cases c <;> decide

theorem resyncResult_mem (r : ResyncOutcome) : Reference.resyncResult r ∈ allowedResults .resync := by
  cases r <;> decide

/-- An operation that passes its parameter check ends with a result of its row of 60_exceptions.md R191. -/
theorem outcome_mem_allowedResults (i : Instr) (b : State) : (Reference.outcome i b).1 ∈ allowedResults i := by
  cases i with
  | setSignal => exact List.mem_cons_self
  | sendBytes => exact List.mem_cons_self
  | wakePulse => exact List.mem_cons_self
  | sleepByte => exact List.mem_cons_self
  | crcCompute => exact List.mem_cons_self
  | crcAppend => exact List.mem_cons_self
  | crcCheckRx => exact (checkResult_mem _).1
  | crcCheckTx => exact (checkResult_mem _).2
  | receiveBytes =>
    change (Reference.receiveBytes 0 b.len (b.zeroRx b.len)).1 ∈ _
    obtain ⟨h, -⟩ | ⟨h, -⟩ | ⟨h, -⟩ :=
      Reference.receiveBytes_zero_outcome (n := b.len) b.argLen.isLt (b.zeroRx b.len)
    all_goals
      rw [h]
      decide
  | receiveFrame =>
    change (Reference.receiveFrame b).1 ∈ _
    obtain ⟨h, -⟩ | ⟨h, -⟩ | ⟨-, ⟨h, -⟩ | ⟨h, -⟩⟩ := Reference.receiveFrame_outcome b
    all_goals
      rw [h]
      decide
  | wakeup =>
    change (Reference.wakeup b).1 ∈ _
    obtain ⟨h, -⟩ | ⟨h, -⟩ | ⟨-, h⟩ := Reference.wakeup_outcome b
    · rw [h]
      decide
    · rw [h]
      decide
    · exact h ▸ wakeVerdict_success_mem _ _
  | resync => exact resyncResult_mem _
  | sendAndReceive =>
    change (Reference.sendAndReceive b).1 ∈ _
    obtain h | ⟨-, h⟩ := Reference.sendAndReceive_result b
    · rw [h]
      decide
    · exact h ▸ frameResult_mem _

/-- Only RESYNC's row holds RESYNCED_WITH_WAKEUP. -/
theorem eq_resync_of_resyncedWithWakeup_mem : ∀ i, .resyncedWithWakeup ∈ allowedResults i → i = .resync := by
  intro i
  cases i <;> decide

/-- The end of an operation that passes its parameter check, as one result and one state. -/
theorem exec_outcome {i : Instr} {s t : State} (hready : Ready s) (hlegal : illegal i s = false)
    (hexec : exec i s = .next t) :
    ∃ r u, Reference.outcome i (Reference.started i s) = (r, u) ∧ t = Reference.completed r u := by
  rw [exec_of_legal hready hlegal] at hexec
  cases hexec
  exact ⟨_, _, rfl, rfl⟩

/-! ### COMM_STATE -/

theorem outcome_wakeup_commState {b u : State} {r : ResultCode} (h : Reference.outcome .wakeup b = (r, u)) :
    u.commState = if r = .success then .awakeSynced else .unknownAsleep := by
  have hcomm := Reference.wakeup_commState b
  rw [show Reference.wakeup b = (r, u) from h] at hcomm
  exact hcomm

theorem outcome_resync_commState {b u : State} {r : ResultCode} (h : Reference.outcome .resync b = (r, u)) :
    u.commState = if r = .fatalCommFailure then .unknownAsleep else .awakeSynced := by
  have hcomm := (Reference.resync_leaves b).commState
  rw [Reference.outcome] at h
  rcases hr : Reference.resync b with ⟨o, v⟩
  rw [hr] at h hcomm
  cases h
  cases o <;> exact hcomm

theorem outcome_sendAndReceive_commState {b u : State} {r : ResultCode}
    (h : Reference.outcome .sendAndReceive b = (r, u)) :
    u.commState = .awakeSynced ∨ u.commState = .unknownAsleep ∧ r = .fatalCommFailure := by
  obtain ⟨-, hsend⟩ := one_le_counts b.params
  have hcomm := Reference.sendRetry_commState b.params.val.nSendAttempts .none (s := Reference.appendCrc b) (by omega)
  rw [show Reference.sendRetry b.params.val.nSendAttempts .none (Reference.appendCrc b) = (r, u) from h] at hcomm
  exact hcomm

/-- Settles O50: COMM_STATE is what the procedure of the operation leaves, which `completed` does not touch. -/
theorem commStateTransitions : Obligations.CommStateTransitions := by
  intro i s t hready hlegal hexec
  obtain ⟨r, u, hr, rfl⟩ := exec_outcome hready hlegal hexec
  refine ⟨fun hi => ?_, ?_, ?_, ?_, ?_, ?_⟩
  · have hcomm := Reference.outcome_commState hi (Reference.started i s)
    rw [hr] at hcomm
    exact hcomm
  · rintro rfl
    cases hr
    rfl
  · rintro rfl
    have hcomm := outcome_wakeup_commState hr
    exact hcomm
  · rintro rfl
    have hcomm := outcome_resync_commState hr
    exact hcomm
  · rintro rfl hne
    obtain hawake | ⟨-, hfatal⟩ := outcome_sendAndReceive_commState hr
    · exact hawake
    · exact absurd hfatal hne
  · rintro rfl hbusy
    obtain hawake | ⟨hasleep, -⟩ := outcome_sendAndReceive_commState hr
    · cases hawake.symm.trans hbusy
    · cases hasleep.symm.trans hbusy

/-! ### SESSION_LOST -/

theorem outcome_resync_sessionLost_iff {b u : State} {r : ResultCode} (hb : b.status.sessionLost = false)
    (h : Reference.outcome .resync b = (r, u)) : u.status.sessionLost = true ↔ r = .resyncedWithWakeup := by
  have hlost := (Reference.resync_leaves b).sessionLost
  rw [Reference.outcome] at h
  rcases hr : Reference.resync b with ⟨o, v⟩
  rw [hr] at h hlost
  cases h
  rw [hlost, hb]
  change false = true ∨ o = .rewoken ↔ Reference.resyncResult o = .resyncedWithWakeup
  cases o <;> decide

theorem outcome_sendAndReceive_sessionLost_iff {b u : State} {r : ResultCode} (hb : b.status.sessionLost = false)
    (h : Reference.outcome .sendAndReceive b = (r, u)) :
    u.status.sessionLost = true ↔ ∃ v ∈ Reference.resyncsOfExchange b, (Reference.resync v).1 = .rewoken := by
  have hlost : Reference.LosesBy (Reference.resyncsOfExchange b) (Reference.appendCrc b)
      (Reference.sendRetry b.params.val.nSendAttempts .none (Reference.appendCrc b)).2 :=
    Reference.sendRetry_losesBy _ _ _
  rw [show Reference.sendRetry b.params.val.nSendAttempts .none (Reference.appendCrc b) = (r, u) from h,
    Reference.LosesBy, Reference.appendCrc_eq, hb] at hlost
  simpa using hlost

/-- Settles O51: an accepted operation starts with SESSION_LOST = 0, and after it the flag is what the calls of Resync
in its procedure make of it. -/
theorem sessionLost : Obligations.SessionLost := by
  intro i s t hready hexec
  cases hlegal : illegal i s with
  | true =>
    rw [exec_of_illegal hready hlegal] at hexec
    cases hexec
    exact ⟨fun _ => rfl, fun _ => rfl, fun _ => ⟨by rintro ⟨⟩, by rintro ⟨⟩⟩, by rintro ⟨⟩, fun _ h => by cases h⟩
  | false =>
    obtain ⟨r, u, hr, rfl⟩ := exec_outcome hready hlegal hexec
    have hmem := outcome_mem_allowedResults i (Reference.started i s)
    rw [hr] at hmem
    refine ⟨fun hi => ?_, by rintro ⟨⟩, ?_, ?_, ?_⟩
    · have hstatus := Reference.outcome_status hi (Reference.started i s)
      rw [hr] at hstatus
      exact congrArg Status.sessionLost hstatus
    · rintro rfl
      have hlost := outcome_resync_sessionLost_iff rfl hr
      exact hlost
    · intro hres
      rw [show r = .resyncedWithWakeup from hres] at hmem
      exact eq_resync_of_resyncedWithWakeup_mem i hmem
    · rintro rfl -
      have hlost := outcome_sendAndReceive_sessionLost_iff rfl hr
      exact hlost

end Sys2Proof.Machine
end

section
/-! O57. A device that never pulls the line: every receive ends at its first bit, so each procedure takes an exact time
and has one outcome, and the loops of SEND_AND_RECEIVE are left in their first iteration. -/

namespace Sys2Proof.Machine

theorem State.line_high_of_silent {s : State} (hdev : s.dev = []) (hdrive : s.driveLow = false) : s.line = .high := by
  rw [State.line_of_released hdrive, State.devLow, hdev]
  rfl

/-! ### Durations of drives -/

theorem traceLen_append (gs hs : List Segment) : traceLen (gs ++ hs) = traceLen gs + traceLen hs := by
  simp [traceLen]

/-- The tokens of a list of bits (70_reset_and_hazards.md R223). -/
theorem traceLen_flatMap_tokenOf (p : Params) (bs : List Bool) : traceLen (bs.flatMap (tokenOf p)) =
    bs.countP id * dt1 p + (bs.length - bs.countP id) * dt0 p := by
  induction bs with
  | nil => simp [traceLen]
  | cons b bs ih =>
    have hle : bs.countP id ≤ bs.length := List.countP_le_length
    rw [List.flatMap_cons, traceLen_append, ih]
    cases b with
    | true =>
      have htoken : traceLen (tokenOf p true) = dt1 p := rfl
      simp only [List.countP_cons, List.length_cons, id, if_true, Nat.succ_mul, Nat.add_sub_add_right, htoken]
      omega
    | false =>
      have htoken : traceLen (tokenOf p false) = dt0 p := by simp [traceLen, tokenOf, dt0, Nat.add_assoc]
      simp only [List.countP_cons, List.length_cons, id, Bool.false_eq_true, if_false, Nat.add_zero,
        Nat.succ_sub hle, Nat.succ_mul, htoken]
      omega

theorem traceLen_byteTokens (p : Params) (b : Byte) : traceLen (byteTokens p b) = byteDuration p b :=
  traceLen_flatMap_tokenOf p (bitsOf b)

theorem traceLen_listTokens (p : Params) (bs : List Byte) : traceLen (listTokens p bs) = listDuration p bs := by
  induction bs with
  | nil => rfl
  | cons b bs ih =>
    rw [← List.singleton_append, listTokens_append, listTokens_singleton, traceLen_append, traceLen_byteTokens, ih]
    rfl

end Sys2Proof.Machine

namespace Sys2Proof.Reference

open Sys2Proof.Machine

theorem sendBytes_now (bs : List Byte) (s : State) :
    (sendBytes bs s).now = s.now + listDuration s.params.val bs := by
  rw [sendBytes, drive_now, traceLen_listTokens]

theorem wakePulse_now (s : State) :
    (wakePulse s).now = s.now + (s.params.val.tWakeLow + s.params.val.tWakeSettle) :=
  drive_now (wakeTokens s.params.val) s

/-! ### Receives without an answer -/

/-- A receive attempt that gets no bit: RX_PREFIX, and the first window of the first bit. -/
def silentAttempt (p : Params) : Nat := listDuration p p.rxPrefix + p.nStart * p.tSample

/-- A wake pulse that gets no answer, with the wait that follows (42_framer.md R153). -/
def silentWake (p : Params) : Nat := (p.tWakeLow + p.tWakeSettle) + silentAttempt p + p.tMaxExecDelay

/-- A Resync that gets no answer (42_framer.md R154). -/
def silentResync (p : Params) : Nat := p.tSyncTimeout + silentAttempt p + byteDuration p p.sleepByte + silentWake p

/-- A procedure called in the state `s` leaves `t` after `d` µs, and its last receive got no byte. -/
structure Unanswered (d : Nat) (s t : State) : Prop where
  now : t.now = s.now + d
  rxCount : t.rxCount = 0

theorem receiveBytes_silent {n : Nat} (hn : 1 ≤ n) {s : State} (h : s.dev = []) : receiveBytes 0 n s =
    (.rxTimeout, ((s.setDrive .high).pass (s.params.val.nStart * s.params.val.tSample)).setRxCount 0) :=
  receiveBytes_of_timeout hn (receiveBit_of_high fun _ => State.line_high_of_silent h rfl)

/-- RX_PREFIX is sent, and no bit of the first byte comes. -/
theorem attempt_silent {n : Nat} (hn : 1 ≤ n) {s : State} (h : s.dev = []) :
    (receiveBytes 0 n (sendBytes s.params.val.rxPrefix s)).1 = .rxTimeout ∧
      Unanswered (silentAttempt s.params.val) s (receiveBytes 0 n (sendBytes s.params.val.rxPrefix s)).2 := by
  have hsend := sendBytes_now s.params.val.rxPrefix s
  have hparams := (keeps_sendBytes s.params.val.rxPrefix s).params
  rw [receiveBytes_silent hn ((keeps_sendBytes _ s).dev.trans h), hparams]
  refine ⟨rfl, ?_, rfl⟩
  change (sendBytes s.params.val.rxPrefix s).now + _ = _
  rw [hsend, silentAttempt, Nat.add_assoc]

theorem receiveFrame_silent {s : State} (h : s.dev = []) :
    (receiveFrame s).1 = .rxTimeout ∧ Unanswered (silentAttempt s.params.val) s (receiveFrame s).2 := by
  obtain ⟨hres, hend⟩ := attempt_silent (n := 1) (Nat.le_refl 1) (s := s.zeroRx s.bound) h
  have hlength : (receiveLength s).1 = .rxTimeout := hres
  rw [receiveFrame_of_length_failed (by rw [hlength]; decide)]
  exact ⟨hlength, hend.now, hend.rxCount⟩

theorem wakeup_silent {s : State} (h : s.dev = []) :
    (wakeup s).1 = .rxTimeout ∧ Unanswered (silentWake s.params.val) s (wakeup s).2 := by
  have hdev : ((wakePulse s).zeroRx 4).dev = [] := (keeps_wakePulse s).dev.trans h
  have hparams : ((wakePulse s).zeroRx 4).params = s.params := (keeps_wakePulse s).params
  have hanswer := attempt_silent (n := 4) (by decide) hdev
  rw [hparams, ← wakeAnswer] at hanswer
  obtain ⟨hres, hend⟩ := hanswer
  have hfst : (wakeup s).1 = .rxTimeout := by
    rw [wakeup_fst, hres]
    rfl
  have hsnd : (wakeup s).2 = (setComm .unknownAsleep (wakeAnswer s).2).pass s.params.val.tMaxExecDelay := by
    rw [wakeup_snd, hfst]
    rfl
  rw [hsnd]
  generalize (wakeAnswer s).2 = t at hend
  refine ⟨hfst, ?_, hend.rxCount⟩
  change t.now + _ = _
  rw [hend.now, State.zeroRx_now, wakePulse_now]
  simp only [silentWake, Nat.add_assoc]

theorem rewake_silent {s : State} (h : s.dev = []) : (rewake s).1 = .unreachable ∧
    Unanswered (byteDuration s.params.val s.params.val.sleepByte + silentWake s.params.val) s (rewake s).2 := by
  have hkeeps := (keeps_sendBytes [s.params.val.sleepByte] s).trans (keeps_commState .unknownAsleep _)
  have hsleep : (setComm .unknownAsleep (sendBytes [s.params.val.sleepByte] s)).now =
      s.now + byteDuration s.params.val s.params.val.sleepByte :=
    sendBytes_now [s.params.val.sleepByte] s
  obtain ⟨hres, hnow, hcount⟩ := wakeup_silent (hkeeps.dev.trans h)
  rw [hkeeps.params, hsleep, Nat.add_assoc] at hnow
  rw [rewake]
  rcases hw : wakeup (setComm .unknownAsleep (sendBytes [s.params.val.sleepByte] s)) with ⟨w, t⟩
  rw [hw] at hres hnow hcount
  cases hres
  exact ⟨rfl, hnow, hcount⟩

theorem resync_silent {s : State} (h : s.dev = []) :
    (resync s).1 = .unreachable ∧ Unanswered (silentResync s.params.val) s (resync s).2 := by
  have hkeeps := (keeps_pass s.params.val.tSyncTimeout s).trans (keeps_receiveFrame _)
  obtain ⟨hres, hnow, -⟩ := receiveFrame_silent (s := s.pass s.params.val.tSyncTimeout) h
  rw [resync]
  rcases hr : receiveFrame (s.pass s.params.val.tSyncTimeout) with ⟨r, t⟩
  rw [hr] at hres hnow hkeeps
  cases hres
  dsimp only at hnow hkeeps ⊢
  obtain ⟨hres', hnow', hcount'⟩ := rewake_silent (hkeeps.dev.trans h)
  rw [hkeeps.params, hnow] at hnow'
  refine ⟨hres', hnow'.trans ?_, hcount'⟩
  simp only [State.pass_now, State.pass_params, silentResync, Nat.add_assoc]

/-! ### The loops of SEND_AND_RECEIVE without an answer -/

/-- Each attempt of PollReceive takes its increment at least (42_framer.md R155). -/
theorem pollReceive_silent (n : Nat) {s : State} (h : s.dev = []) : (pollReceive n s).1 = .rxTimeout ∧
    (pollReceive n s).2.now = s.now + n * max s.params.val.tPoll (silentAttempt s.params.val) := by
  induction n generalizing s with
  | zero => exact ⟨rfl, by simp [pollReceive]⟩
  | succ n ih =>
    have hkeeps := keeps_receiveFrame s
    obtain ⟨hres, hnow, -⟩ := receiveFrame_silent h
    rw [pollReceive]
    rcases hr : receiveFrame s with ⟨r, t⟩
    rw [hr] at hres hnow hkeeps
    cases hres
    dsimp only at hnow hkeeps ⊢
    rw [hnow, Nat.add_sub_cancel_left]
    split
    · next hshort =>
      obtain ⟨hres', hnow'⟩ := ih (s := t.pass (s.params.val.tPoll - silentAttempt s.params.val))
        (hkeeps.dev.trans h)
      refine ⟨hres', hnow'.trans ?_⟩
      rw [State.pass_now, State.pass_params, hkeeps.params, hnow, Nat.succ_mul, Nat.max_eq_left (Nat.le_of_lt hshort)]
      omega
    · next hlong =>
      obtain ⟨hres', hnow'⟩ := ih (s := t) (hkeeps.dev.trans h)
      refine ⟨hres', hnow'.trans ?_⟩
      rw [hkeeps.params, hnow, Nat.succ_mul, Nat.max_eq_right (Nat.le_of_not_lt hlong)]
      omega

/-- The time from the end of a transmission to the end of an exchange without an answer. -/
def silentExchange (s : State) : Nat :=
  s.nPoll * max s.params.val.tPoll (silentAttempt s.params.val) + silentResync s.params.val

theorem receiveOnce_silent {s : State} (h : s.dev = []) : (receiveOnce s).1 = some (.finished .fatalCommFailure) ∧
    Unanswered (silentExchange s) s (receiveOnce s).2 ∧
    ((receiveOnce s).2.status.sessionLost = true ↔ s.status.sessionLost = true) := by
  have hkeeps := keeps_pollReceive s.nPoll s
  have hstatus := pollReceive_status s.nPoll s
  obtain ⟨hres, hnow⟩ := pollReceive_silent s.nPoll h
  rw [receiveOnce]
  rcases hr : pollReceive s.nPoll s with ⟨r, t⟩
  rw [hr] at hres hnow hkeeps hstatus
  cases hres
  have hlost := (resync_leaves t).sessionLost
  obtain ⟨hres', hnow', hcount'⟩ := resync_silent (hkeeps.dev.trans h)
  rw [hkeeps.params, hnow] at hnow'
  rw [hres', hstatus] at hlost
  dsimp only
  rw [recoverAndResend_snd]
  refine ⟨?_, ⟨hnow'.trans (Nat.add_assoc _ _ _), hcount'⟩, hlost.trans (by simp)⟩
  rw [recoverAndResend]
  rcases hs : resync t with ⟨o, u⟩
  rw [hs] at hres'
  cases hres'
  rfl

theorem transmit_now (s : State) : (transmit s).now =
    s.now + listDuration s.params.val (s.params.val.cmdPrefix ++ s.tx.prefixBytes s.tx.frameLen) + s.execDelayUs := by
  rw [← sendBytes_now]
  rfl

/-- The outer loop without an answer: the inner and the outer loop are left in their first iterations. -/
theorem sendRetry_silent {n : Nat} (hn : 1 ≤ n) (e : Escalation) {s : State} (h : s.dev = []) :
    sendRetry n e s = (.fatalCommFailure, (receiveOnce (transmit s)).2) := by
  have hrecv := one_le_nRecvAttempts s.params
  obtain ⟨n, rfl⟩ : ∃ m, n = m + 1 := ⟨_, (Nat.sub_add_cancel hn).symm⟩
  obtain ⟨m, hm⟩ : ∃ m, s.params.val.nRecvAttempts = m + 1 := ⟨_, (Nat.sub_add_cancel hrecv).symm⟩
  obtain ⟨hend, -⟩ := receiveOnce_silent ((keeps_transmit s).dev.trans h)
  rw [sendRetry, hm, receiveRetry]
  rcases hr : receiveOnce (transmit s) with ⟨r, t⟩
  rw [hr] at hend
  cases hend
  rfl

theorem Keeps.silentExchange {s t : State} (h : Keeps s t) : silentExchange t = silentExchange s := by
  unfold Reference.silentExchange State.nPoll State.execTimeoutUs
  rw [h.params, h.argExecTimeout]

/-- Appending the CRC reads and writes nothing that the start of an operation changes. -/
theorem appendCrc_started_tx (i : Instr) (s : State) : (appendCrc (started i s)).tx = (appendCrc s).tx := by
  simp only [appendCrc, State.writeTxCrc, State.storeCrc_tx, State.writeTx_tx, State.writeTx_params]
  rfl

/-- SendAndReceive without an answer, after its parameter check (42_framer.md R165(a)). -/
theorem sendAndReceive_silent {s : State} (h : s.dev = []) :
    (sendAndReceive s).1 = .fatalCommFailure ∧ (sendAndReceive s).2.commState = .unknownAsleep ∧
    ((sendAndReceive s).2.status.sessionLost = true ↔ s.status.sessionLost = true) ∧
    Unanswered (listDuration s.params.val
        (s.params.val.cmdPrefix ++ (appendCrc s).tx.prefixBytes (appendCrc s).tx.frameLen) +
      s.execDelayUs + silentExchange s) s (sendAndReceive s).2 := by
  obtain ⟨-, hsend⟩ := one_le_counts s.params
  have hbase := appendCrc_eq s
  have hdev : (appendCrc s).dev = [] := by rw [hbase, h]
  have hnow : (appendCrc s).now = s.now := by rw [hbase]
  have hparams : (appendCrc s).params = s.params := by rw [hbase]
  have hdelay : (appendCrc s).execDelayUs = s.execDelayUs := by rw [hbase]; rfl
  have hexchange : silentExchange (appendCrc s) = silentExchange s := by rw [hbase]; rfl
  have hstatus : (transmit (appendCrc s)).status = s.status := (transmit_status _).trans (by rw [hbase])
  have hkeeps := keeps_transmit (appendCrc s)
  have hcomm := receiveOnce_commState (transmit (appendCrc s))
  obtain ⟨hfatal, ⟨hend, hcount⟩, hlost⟩ := receiveOnce_silent (hkeeps.dev.trans hdev)
  rw [sendAndReceive, sendRetry_silent hsend .none hdev]
  rw [hfatal] at hcomm
  rw [hstatus] at hlost
  rw [hkeeps.silentExchange, hexchange, transmit_now, hnow, hparams, hdelay, Nat.add_assoc, Nat.add_assoc,
    ← Nat.add_assoc (listDuration _ _)] at hend
  exact ⟨rfl, hcomm, hlost, hend, hcount⟩

end Sys2Proof.Reference

namespace Sys2Proof.Machine

/-- Settles O57: the durations of `sendAndReceive_silent` written out. -/
theorem silentDeviceIsFatal : Obligations.SilentDeviceIsFatal := by
  intro s hready hlegal hdev
  obtain ⟨h7, htx, h4, hrx⟩ := (illegal_sendAndReceive_eq_false_iff s).mp hlegal
  obtain ⟨r, u, hr, hend⟩ := sendAndReceiveResult s hready h7 htx h4 hrx
  have hsilent := Reference.sendAndReceive_silent (s := Reference.started .sendAndReceive s) hdev
  rw [hr, Reference.appendCrc_started_tx] at hsilent
  obtain ⟨hfatal, hcomm, hlost, hnow, hcount⟩ := hsilent
  refine ⟨_, hend, hfatal, hcomm, hcount, Bool.eq_false_iff.mpr fun h => Bool.false_ne_true (hlost.mp h), ?_⟩
  refine hnow.trans ?_
  simp only [Reference.silentExchange, Reference.silentResync, Reference.silentWake, Reference.silentAttempt,
    Nat.add_assoc]
  rfl

end Sys2Proof.Machine
end

section
/-! O7, O13, O33, O47. Every host access has an outcome, a command to a running engine only sets CMD_REJECTED, and an
operation ends as its parameter check and its procedure say. -/

namespace Sys2Proof.Machine

/-! ### The step -/

theorem perform_answers (a : HostAccess) (s : State) : ∃ t, perform a s = .next t := by
  cases a with
  | bus b =>
    cases b with
    | read a => exact ⟨_, rfl⟩
    | write a v =>
      by_cases ha : a = 0x000
      · obtain ⟨code, op, prog, hcommand⟩ := writeCmd_eq_command v s
        exact ⟨_, (if_pos ha).trans hcommand⟩
      · exact ⟨_, if_neg ha⟩
  | waitDone p => exact ⟨_, rfl⟩
  | resetAssert => exact ⟨_, rfl⟩
  | resetRelease => exact ⟨_, rfl⟩

/-- Settles O7: a step is a host access that is due, or the machine going on by itself. -/
theorem everyStepGoesOn : Obligations.EveryStepGoesOn := by
  intro s
  cases hdue : s.due with
  | false => exact ⟨_, step_of_not_due hdue⟩
  | true =>
    cases hhost : s.host with
    | nil => simp [State.due_of_host_nil s hhost] at hdue
    | cons e rest =>
      rw [step_of_due hhost hdue]
      exact perform_answers _ _

/-! ### A command to a running engine -/

theorem command_rejected {s : State} (code : Byte) (op : Option Instr) (prog : Stmt)
    (hreset : s.resetIn = false) (hactive : s.status.active = true) : command code op prog s = s.rejectCmd := by
  simp [command, hreset, hactive]

/-- Settles O13: the byte names some command, and which one does not matter to a running engine. -/
theorem rejectedCommandSetsOnlyItsBit : Obligations.RejectedCommandSetsOnlyItsBit := by
  intro s w rest hactive hreset hhost
  obtain ⟨code, op, prog, hcommand⟩ := writeCmd_eq_command w { s with host := rest }
  calc step s
    _ = writeCmd w { s with host := rest } := step_command hhost
    _ = .next (command code op prog { s with host := rest }) := hcommand
    _ = .next (State.rejectCmd { s with host := rest }) :=
      congrArg Host.Outcome.next (command_rejected code op prog hreset hactive)
    _ = .next { s with host := rest, status := { s.status with cmdRejected := true } } := rfl

/-! ### The end of an operation -/

/-- Settles O33: the parameter check comes first in the pseudocode, and `finish` follows it at once. -/
theorem parameterErrors : Obligations.ParameterErrors := fun _ _ => exec_of_illegal

/-- An operation that can fail a parameter check has PARAMETER_ERROR in its row of 60_exceptions.md R191. -/
theorem parameterError_mem_of_illegal {i : Instr} {s : State} (h : illegal i s = true) :
    .parameterError ∈ allowedResults i := by
  cases i with
  | setSignal | wakePulse | sleepByte | wakeup => exact absurd h Bool.false_ne_true
  | sendBytes | receiveBytes | crcCompute | crcAppend | crcCheckRx | crcCheckTx | receiveFrame | resync
  | sendAndReceive => decide

/-- Settles O47: a failed parameter check and a passed one both end in `completed`, with a result of the row. -/
theorem resultSets : Obligations.ResultSets := by
  intro i s hready
  cases hlegal : illegal i s with
  | true => exact ⟨_, exec_of_illegal hready hlegal, rfl, rfl, parameterError_mem_of_illegal hlegal⟩
  | false => exact ⟨_, exec_of_legal hready hlegal, rfl, rfl, outcome_mem_allowedResults i _⟩

end Sys2Proof.Machine
end

section
/-! O21, O22, O27. A device's pulse covers the same instant when the time base starts anew, and a state held in reset
has the registers of `State.reset`. SendBytes takes the time of the tokens it drives. -/

namespace Sys2Proof.Machine

/-! ### Reset -/

/-- At the instant 0 of the new time base, the device pulls as it did at `now` of the old one. -/
theorem State.assertReset_devLow (s : State) : s.assertReset.devLow = s.devLow := by
  have hpulse : ∀ p : Pulse, (decide (p.start - s.now ≤ 0) && decide (0 < p.stop - s.now)) =
      (decide (p.start ≤ s.now) && decide (s.now < p.stop)) := fun p => by
    simp only [Nat.sub_pos_iff_lt, Nat.le_zero_eq, Nat.sub_eq_zero_iff_le]
  calc s.assertReset.devLow
    _ = (rebase s.now s.dev).any fun p => p.start ≤ 0 && 0 < p.stop := rfl
    _ = s.dev.any fun p => decide (p.start - s.now ≤ 0) && decide (0 < p.stop - s.now) := List.any_map
    _ = s.devLow := by simp only [hpulse, State.devLow]

/-- Settles O21: every register of `assertReset` is the one of `State.reset`. -/
theorem resetFromAnyState : Obligations.ResetFromAnyState := by
  intro s rest hhost
  obtain ⟨hcmd, hstatus, hresult, hlen, hlevel, hsize, hdelay, htimeout, hcrc, hcount, hcomm, hdrive, htx, hrx, hop,
    hnow⟩ := resetValues
  exact ⟨State.assertReset { s with host := rest }, step_of_due hhost (State.due_of_host_cons hhost), hcmd, hstatus,
    hresult, hlen, hlevel, hsize, hdelay, htimeout, hcrc, hcount, hcomm, hdrive, htx, hrx, hop, hnow, rfl, rfl, rfl,
    State.assertReset_devLow _⟩

/-- A command while reset is asserted (70_reset_and_hazards.md R210). -/
theorem command_ignored (code : Byte) (op : Option Instr) (prog : Stmt) {s : State} (h : s.resetIn = true) :
    command code op prog s = s :=
  if_pos h

theorem step_write_ignored {s : State} {a : Addr} {v : Byte} {rest : List HostEvent} (hreset : s.resetIn = true)
    (hhost : s.host = ⟨0, 0, .bus (.write a v)⟩ :: rest) : step s = .next { s with host := rest } := by
  by_cases ha : a = 0x000
  · subst ha
    obtain ⟨code, op, prog, hcommand⟩ := writeCmd_eq_command v { s with host := rest }
    calc step s
      _ = writeCmd v { s with host := rest } := step_command hhost
      _ = .next (command code op prog { s with host := rest }) := hcommand
      _ = .next { s with host := rest } := congrArg _ (command_ignored code op prog hreset)
  · exact (step_write hhost ha).trans (congrArg _ (State.hostWrite_ignored a v (.inr hreset)))

theorem State.wireByte_of_released {s : State} (h : s.driveLow = false) :
    s.wireByte = if s.devLow then 0x00 else 0x01 := by
  rw [State.wireByte, State.line_of_released h, h]
  cases s.devLow <;> rfl

/-- The registers below WIRE of a state held in reset. -/
theorem Inv.registers_inReset {s : State} (hinv : Inv s) (hreset : s.resetIn = true) :
    s.registers.take 14 = List.replicate 14 0x00 :=
  calc s.registers.take 14
    _ = State.reset.registers.take 14 := by rw [hinv.inReset hreset]; rfl
    _ = List.replicate 14 0x00 := rfl

/-- A state held in reset reads as `State.reset` does, but for the line. -/
theorem Inv.stored_inReset {s : State} (hinv : Inv s) (hreset : s.resetIn = true) (a : Addr) :
    s.stored a = if a = 0x00E then (if s.devLow then 0x00 else 0x01) else 0x00 := by
  have hs := hinv.inReset hreset
  have hdrive : s.driveLow = false := congrArg State.driveLow hs
  have htx : s.tx = [] := congrArg State.tx hs
  have hrx : s.rx = [] := congrArg State.rx hs
  by_cases hwire : a = 0x00E
  · subst hwire
    rw [if_pos rfl, ← State.wireByte_of_released hdrive]
    rfl
  · rw [if_neg hwire]
    have hne : a.toNat ≠ 14 := fun h => hwire (BitVec.eq_of_toNat_eq h)
    by_cases hreg : a.toNat < 0x00F
    · have hmem : s.stored a ∈ s.registers.take 14 := by
        rw [s.stored_register hreg]
        exact List.mem_take_iff_getElem.mpr ⟨a.toNat, by rw [Nat.lt_min]; exact ⟨by omega, hreg⟩, rfl⟩
      rw [hinv.registers_inReset hreset] at hmem
      exact List.eq_of_mem_replicate hmem
    · rw [s.stored_window (Nat.le_of_not_lt hreg), htx, hrx, Memory.read_nil, Memory.read_nil]
      split_ifs <;> rfl

theorem step_read_inReset {s : State} {a : Addr} {rest : List HostEvent} (hinv : Inv s) (hreset : s.resetIn = true)
    (hhost : s.host = ⟨0, 0, .bus (.read a)⟩ :: rest) : step s = .next { s with
      host := rest
      reads := (if a = 0x00E then (if s.devLow then 0x00 else 0x01) else 0x00) :: s.reads } := by
  have hactive : s.status.active = false := congrArg (·.status.active) (hinv.inReset hreset)
  rw [step_read hhost]
  obtain ⟨hfree, -⟩ | ⟨-, h⟩ := State.hostRead_cases a { s with host := rest }
  · have ⟨hrun, _⟩ := (State.unspecified_iff _ a).mp hfree
    exact absurd hrun (Bool.eq_false_iff.mp hactive)
  · exact congrArg _ (h.trans (congrArg (fun v => { s with host := rest, reads := v :: s.reads })
      (hinv.stored_inReset hreset a)))

/-- Settles O22: the three accesses of a host to a block held in reset. -/
theorem heldInReset : Obligations.HeldInReset := by
  intro s rest hinv hreset
  refine ⟨fun a v hhost => step_write_ignored hreset hhost, fun a hhost => step_read_inReset hinv hreset hhost,
    fun hhost => ⟨step_of_due hhost (State.due_of_host_cons hhost), ?_⟩⟩
  exact congrArg (·.status.active) (hinv.inReset hreset)

/-! ### Durations of tokens -/

/-- Settles O27: SEND_BYTES is SendBytes of the first ARG_LEN bytes of TX, and SendBytes drives their tokens. -/
theorem tokenDurations : Obligations.TokenDurations := by
  intro p
  refine ⟨rfl, ?_, traceLen_byteTokens p, traceLen_listTokens p, fun s bs hp => ?_, fun s hp hready hlen => ?_⟩
  · simp [traceLen, tokenOf, Nat.add_assoc]
  · rw [Reference.sendBytes_now, hp]
    rfl
  · subst hp
    exact ⟨_, sendBytesResult s hready hlen, Reference.sendBytes_now _ (Reference.started .sendBytes s)⟩

end Sys2Proof.Machine
end

section
/-! O56. The time a procedure takes at most is the sum of what its calls take at most, loop by loop; an operation that
does not receive takes exactly the time of the waveform it drives. -/

namespace Sys2Proof.Reference

open Sys2Proof.Machine

/-! ### Receives -/

theorem receiveBit_now_le (s : State) : (receiveBit s).2.now ≤ s.now + bitBound s.params.val := by
  obtain ⟨d, hd, hpass⟩ := receiveBit_pass s
  rw [hpass, State.pass_now]
  exact Nat.add_le_add_left hd _

theorem receiveBits_now_le (ix n k : Nat) (s : State) :
    (receiveBits ix n k s).2.now ≤ s.now + n * bitBound s.params.val := by
  induction n generalizing k s with
  | zero => exact Nat.le_add_right _ _
  | succ n ih =>
    have hbit := receiveBit_now_le s
    have hkeeps := keeps_receiveBit s
    rw [receiveBits, Nat.succ_mul]
    rcases hr : receiveBit s with ⟨r, t⟩
    rw [hr] at hbit hkeeps
    cases r with
    | timeout => exact Nat.le_trans hbit (by omega)
    | zero =>
      have hrest := ih (k + 1) t
      rw [hkeeps.params] at hrest
      dsimp only at hbit ⊢
      omega
    | one =>
      have hrest := ih (k + 1) (t.orRxBit ix k)
      rw [State.orRxBit_params, State.orRxBit_now, hkeeps.params] at hrest
      dsimp only at hbit ⊢
      omega

theorem receiveFrom_now_le (off n i : Nat) (s : State) :
    (receiveFrom off n i s).2.now ≤ s.now + 8 * n * bitBound s.params.val := by
  induction n generalizing i s with
  | zero => exact Nat.le_add_right _ _
  | succ n ih =>
    have hbits := receiveBits_now_le (off + i) 8 0 s
    have hkeeps := keeps_receiveBits (off + i) 8 0 s
    rw [receiveFrom, Nat.mul_succ, Nat.add_mul]
    rcases hr : receiveBits (off + i) 8 0 s with ⟨r, t⟩
    rw [hr] at hbits hkeeps
    cases r with
    | false => exact Nat.le_trans hbits (by omega)
    | true =>
      have hrest := ih (i + 1) t
      rw [hkeeps.params] at hrest
      dsimp only at hbits ⊢
      omega

theorem receiveBytes_now_le (off n : Nat) (s : State) :
    (receiveBytes off n s).2.now ≤ s.now + 8 * n * bitBound s.params.val :=
  receiveFrom_now_le off n 0 (s.setDrive .high)

/-- RX_PREFIX, and a receive of `n` bytes. -/
theorem attempt_now_le (n : Nat) (s : State) :
    (receiveBytes 0 n (sendBytes s.params.val.rxPrefix s)).2.now ≤
      s.now + (listDuration s.params.val s.params.val.rxPrefix + 8 * n * bitBound s.params.val) := by
  have hbytes := receiveBytes_now_le 0 n (sendBytes s.params.val.rxPrefix s)
  rwa [sendBytes_now, (keeps_sendBytes s.params.val.rxPrefix s).params, Nat.add_assoc] at hbytes

theorem frameBound_add (p : Params) (m n : Nat) : frameBound p (m + n) = frameBound p m + 8 * n * bitBound p := by
  rw [frameBound, frameBound, Nat.mul_add, Nat.add_mul, Nat.add_assoc]

theorem frameBound_le (p : Params) {m n : Nat} (h : m ≤ n) : frameBound p m ≤ frameBound p n := by
  rw [← Nat.add_sub_cancel' h, frameBound_add]
  exact Nat.le_add_right _ _

theorem Keeps.bound {s t : State} (h : Keeps s t) : t.bound = s.bound :=
  congrArg BitVec.toNat h.argRspSize

/-- The length byte and what follows it are no more bytes than the response bound. -/
theorem receiveFrame_now_le {s : State} (hbound : 1 ≤ s.bound) :
    (receiveFrame s).2.now ≤ s.now + frameBound s.params.val s.bound := by
  have hlength : (receiveLength s).2.now ≤ s.now + frameBound s.params.val 1 := attempt_now_le 1 (s.zeroRx s.bound)
  have hkeeps : Keeps s (receiveLength s).2 :=
    ((keeps_zeroRx s.bound s).trans (keeps_sendBytes s.params.val.rxPrefix _)).trans (keeps_receiveBytes 0 1 _)
  have hfirst := Nat.le_trans hlength (Nat.add_le_add_left (frameBound_le s.params.val hbound) s.now)
  by_cases hok : (receiveLength s).1 = .success
  · rw [receiveFrame_of_length_success hok]
    split
    · exact hfirst
    · next hlegal =>
      obtain ⟨hlow, hhigh⟩ := State.lengthIllegal_eq_false (Bool.eq_false_iff.mpr hlegal)
      rw [hkeeps.bound] at hhigh
      have hrest := receiveBytes_now_le 1 ((receiveLength s).2.rx.frameLen - 1) (receiveLength s).2
      have hsum := frameBound_add s.params.val 1 ((receiveLength s).2.rx.frameLen - 1)
      have hframe := frameBound_le s.params.val hhigh
      rw [hkeeps.params] at hrest
      rw [Nat.add_sub_cancel' (by omega)] at hsum
      omega
  · rw [receiveFrame_of_length_failed hok]
    exact hfirst

/-! ### Wakeup and Resync -/

theorem wakeAnswer_now_le (s : State) : (wakeAnswer s).2.now ≤
    s.now + (s.params.val.tWakeLow + s.params.val.tWakeSettle) +
      (listDuration s.params.val s.params.val.rxPrefix + 32 * bitBound s.params.val) := by
  have hanswer := attempt_now_le 4 ((wakePulse s).zeroRx 4)
  rwa [State.zeroRx_params, State.zeroRx_now, (keeps_wakePulse s).params, wakePulse_now] at hanswer

theorem wakeup_now_le (s : State) : (wakeup s).2.now ≤ s.now + wakeBound s.params.val := by
  have hanswer := wakeAnswer_now_le s
  have hend : (wakeup s).2.now ≤ (wakeAnswer s).2.now + s.params.val.tMaxExecDelay := by
    rw [wakeup_snd]
    split
    · exact Nat.le_add_right _ _
    · exact Nat.le_refl _
  rw [wakeBound]
  omega

theorem rewake_now (s : State) :
    (rewake s).2.now = (wakeup (setComm .unknownAsleep (sendBytes [s.params.val.sleepByte] s))).2.now := by
  rw [rewake]
  split
  · next h => rw [h, loseSession]
  · next h => rw [h]

theorem rewake_now_le (s : State) : (rewake s).2.now ≤
    s.now + byteDuration s.params.val s.params.val.sleepByte + wakeBound s.params.val := by
  have hsleep : (setComm .unknownAsleep (sendBytes [s.params.val.sleepByte] s)).now =
      s.now + byteDuration s.params.val s.params.val.sleepByte :=
    sendBytes_now [s.params.val.sleepByte] s
  have hkeeps := (keeps_sendBytes [s.params.val.sleepByte] s).trans (keeps_commState .unknownAsleep _)
  have hwake := wakeup_now_le (setComm .unknownAsleep (sendBytes [s.params.val.sleepByte] s))
  rwa [hsleep, hkeeps.params, ← rewake_now] at hwake

theorem resync_now_le {s : State} (hbound : 1 ≤ s.bound) :
    (resync s).2.now ≤ s.now + resyncBound s.params.val s.bound := by
  have hpass := keeps_pass s.params.val.tSyncTimeout s
  have hframe := receiveFrame_now_le (s := s.pass s.params.val.tSyncTimeout) (by rwa [hpass.bound])
  rw [hpass.bound, hpass.params, State.pass_now] at hframe
  have hkeeps := hpass.trans (keeps_receiveFrame _)
  rw [resync]
  rcases hr : receiveFrame (s.pass s.params.val.tSyncTimeout) with ⟨r, t⟩
  rw [hr] at hframe hkeeps
  dsimp only at hframe hkeeps
  have hsynced : t.now ≤ s.now + resyncBound s.params.val s.bound := by
    rw [resyncBound]
    omega
  have hrewake : (rewake t).2.now ≤ s.now + resyncBound s.params.val s.bound := by
    have hnow := rewake_now_le t
    rw [hkeeps.params] at hnow
    rw [resyncBound]
    omega
  cases r
  case success => exact hsynced
  all_goals
    dsimp only
    exact hrewake

/-! ### The loops of SEND_AND_RECEIVE -/

/-- The bound of one attempt of PollReceive: its increment or a frame, whichever is longer (42_framer.md R155). -/
def pollBound (s : State) : Nat := max s.params.val.tPoll (frameBound s.params.val s.bound)

/-- The bound of one iteration of the inner loop: the poll budget, and a Resync. -/
def onceBound (s : State) : Nat := s.nPoll * pollBound s + resyncBound s.params.val s.bound

/-- The bound of one iteration of the outer loop. -/
def resendBound (s : State) : Nat :=
  listDuration s.params.val (s.params.val.cmdPrefix ++ s.tx.prefixBytes s.tx.frameLen) + s.execDelayUs +
    s.params.val.nRecvAttempts * onceBound s

theorem Keeps.pollBound {s t : State} (h : Keeps s t) : pollBound t = pollBound s := by
  unfold Reference.pollBound
  rw [h.params, h.bound]

theorem Keeps.onceBound {s t : State} (h : Keeps s t) : onceBound t = onceBound s := by
  unfold Reference.onceBound State.nPoll State.execTimeoutUs
  rw [h.params, h.argExecTimeout, h.bound, h.pollBound]

theorem Keeps.resendBound {s t : State} (h : Keeps s t) : resendBound t = resendBound s := by
  unfold Reference.resendBound State.execDelayUs
  rw [h.params, h.argExecDelay, h.tx, h.onceBound]

theorem pollReceive_now_le (n : Nat) {s : State} (hbound : 1 ≤ s.bound) :
    (pollReceive n s).2.now ≤ s.now + n * pollBound s := by
  induction n generalizing s with
  | zero => exact Nat.le_add_right _ _
  | succ n ih =>
    have hframe := receiveFrame_now_le hbound
    have hpoll : s.params.val.tPoll ≤ pollBound s := Nat.le_max_left _ _
    have hlong : frameBound s.params.val s.bound ≤ pollBound s := Nat.le_max_right _ _
    have hkeeps := keeps_receiveFrame s
    rw [pollReceive, Nat.succ_mul]
    rcases hr : receiveFrame s with ⟨r, t⟩
    rw [hr] at hframe hkeeps
    dsimp only at hframe hkeeps
    have hrest : ∀ u, Keeps t u → u.now ≤ s.now + pollBound s →
        (pollReceive n u).2.now ≤ s.now + (n * pollBound s + pollBound s) := fun u hu hnow => by
      have hloop := ih (s := u) (by rwa [(hkeeps.trans hu).bound])
      rw [(hkeeps.trans hu).pollBound] at hloop
      omega
    cases r
    case rxTimeout =>
      dsimp only
      split
      · exact hrest _ (keeps_pass _ t) (by rw [State.pass_now]; omega)
      · exact hrest t (Keeps.refl t) (by omega)
    all_goals exact Nat.le_trans hframe (by omega)

/-- An iteration of the inner loop is over after its polls, or after a Resync that follows them. -/
theorem receiveOnce_now_le {s : State} (hbound : 1 ≤ s.bound) : (receiveOnce s).2.now ≤ s.now + onceBound s := by
  have hpoll := pollReceive_now_le s.nPoll hbound
  have hkeeps := keeps_pollReceive s.nPoll s
  rw [receiveOnce, onceBound]
  rcases hr : pollReceive s.nPoll s with ⟨r, t⟩
  rw [hr] at hpoll hkeeps
  dsimp only at hpoll hkeeps
  have hsync : ∀ u, Keeps t u → u.now = t.now →
      (resync u).2.now ≤ s.now + (s.nPoll * pollBound s + resyncBound s.params.val s.bound) := fun u hu hnow => by
    have hresync := resync_now_le (s := u) (by rwa [(hkeeps.trans hu).bound])
    rw [(hkeeps.trans hu).bound, (hkeeps.trans hu).params] at hresync
    omega
  cases r
  case rxTimeout =>
    dsimp only
    rw [recoverAndResend_snd]
    exact hsync t (Keeps.refl t) rfl
  case success =>
    dsimp only
    split
    · exact Nat.le_trans hpoll (by omega)
    · rw [recover_snd]
      exact hsync _ (keeps_checkFrame t) (Action.now_run _ t)
  all_goals
    dsimp only
    rw [recover_snd]
    exact hsync t (Keeps.refl t) rfl

theorem receiveRetry_now_le (n : Nat) {s : State} (hbound : 1 ≤ s.bound) :
    (receiveRetry n s).2.now ≤ s.now + n * onceBound s := by
  induction n generalizing s with
  | zero => exact Nat.le_add_right _ _
  | succ n ih =>
    have honce := receiveOnce_now_le hbound
    have hkeeps := keeps_receiveOnce s
    rw [receiveRetry, Nat.succ_mul]
    rcases hr : receiveOnce s with ⟨r, t⟩
    rw [hr] at honce hkeeps
    dsimp only at honce hkeeps
    cases r with
    | some e => exact Nat.le_trans honce (by omega)
    | none =>
      have hrest := ih (s := t) (by rwa [hkeeps.bound])
      rw [hkeeps.onceBound] at hrest
      exact Nat.le_trans hrest (by omega)

theorem sendRetry_now_le (n : Nat) (e : Escalation) {s : State} (hbound : 1 ≤ s.bound) :
    (sendRetry n e s).2.now ≤ s.now + n * resendBound s := by
  induction n generalizing e s with
  | zero => cases e <;> exact Nat.le_add_right _ _
  | succ n ih =>
    have hsent := keeps_transmit s
    have hretry := receiveRetry_now_le s.params.val.nRecvAttempts (s := transmit s) (by rwa [hsent.bound])
    have hkeeps := hsent.trans (keeps_receiveRetry s.params.val.nRecvAttempts _)
    rw [transmit_now, hsent.onceBound, Nat.add_assoc s.now, Nat.add_assoc s.now, ← resendBound] at hretry
    rw [sendRetry, Nat.succ_mul]
    rcases hr : receiveRetry s.params.val.nRecvAttempts (transmit s) with ⟨r, t⟩
    rw [hr] at hretry hkeeps
    dsimp only at hretry hkeeps
    cases r with
    | finished c => exact Nat.le_trans hretry (by omega)
    | resend e =>
      have hrest := ih e (s := t) (by rwa [hkeeps.bound])
      rw [hkeeps.resendBound] at hrest
      exact Nat.le_trans hrest (by omega)

/-- The state in which the loops start has the operands of the operation and the CRC in TX. -/
theorem sendAndReceive_now_le {s : State} (hbound : 1 ≤ s.bound) :
    (sendAndReceive s).2.now ≤ s.now + operationBound .sendAndReceive s := by
  have hbase := appendCrc_eq s
  have hnow : (appendCrc s).now = s.now := by rw [hbase]
  have hparams : (appendCrc s).params = s.params := by rw [hbase]
  have hsize : (appendCrc s).bound = s.bound := by rw [hbase]; rfl
  have hdelay : (appendCrc s).execDelayUs = 1000 * s.argExecDelay.toNat := by rw [hbase]; rfl
  have hpoll : (appendCrc s).nPoll = s.nPoll := by rw [hbase]; rfl
  have hresend : s.params.val.nSendAttempts * resendBound (appendCrc s) = operationBound .sendAndReceive s := by
    rw [resendBound, onceBound, pollBound, hparams, hsize, hdelay, hpoll]
    rfl
  have hloop := sendRetry_now_le s.params.val.nSendAttempts .none (s := appendCrc s) (by rwa [hsize])
  rwa [hnow, hresend] at hloop

/-! ### Every operation -/

/-- An operation that does not receive takes exactly its bound (70_reset_and_hazards.md R224). -/
theorem outcome_now_of_not_receives {i : Instr} (hi : receives i = false) (b : State) :
    (outcome i b).2.now = b.now + operationBound i b := by
  cases i with
  | setSignal | crcCompute | crcCheckRx | crcCheckTx => rfl
  | crcAppend => exact State.writeTxCrc_now _ _ b
  | sendBytes => exact sendBytes_now _ b
  | wakePulse => exact wakePulse_now b
  | sleepByte => exact sendBytes_now [b.params.val.sleepByte] b
  | receiveBytes | receiveFrame | wakeup | resync | sendAndReceive => cases hi

/-- The parameter check of an operation with a response bound (60_exceptions.md R193) takes none below 4. -/
theorem one_le_bound_of_legal {i : Instr} {b : State} (hi : i = .receiveFrame ∨ i = .resync ∨ i = .sendAndReceive)
    (hlegal : illegal i b = false) : 1 ≤ b.bound := by
  have h4 : 4 ≤ b.bound := by
    obtain rfl | rfl | rfl := hi
    case inr.inr =>
      obtain ⟨-, -, h4, -⟩ := (illegal_sendAndReceive_eq_false_iff b).mp hlegal
      exact h4
    all_goals
      simp only [illegal, Bool.or_eq_false_iff, decide_eq_false_iff_not, Nat.not_lt] at hlegal
      exact hlegal.left
  exact Nat.le_trans (by decide) h4

/-- An operation that passes its parameter check takes at most its bound (70_reset_and_hazards.md R224). -/
theorem outcome_now_le {i : Instr} {b : State} (hlegal : illegal i b = false) :
    (outcome i b).2.now ≤ b.now + operationBound i b := by
  cases i with
  | setSignal | sendBytes | wakePulse | sleepByte | crcCompute | crcAppend | crcCheckRx | crcCheckTx =>
    exact Nat.le_of_eq (outcome_now_of_not_receives rfl b)
  | receiveBytes => exact receiveBytes_now_le 0 b.len (b.zeroRx b.len)
  | wakeup => exact wakeup_now_le b
  | receiveFrame => exact receiveFrame_now_le (one_le_bound_of_legal (.inl rfl) hlegal)
  | resync => exact resync_now_le (one_le_bound_of_legal (.inr (.inl rfl)) hlegal)
  | sendAndReceive => exact sendAndReceive_now_le (one_le_bound_of_legal (.inr (.inr rfl)) hlegal)

theorem operationBound_started (i j : Instr) (s : State) : operationBound i (started j s) = operationBound i s := by
  cases i
  case sendAndReceive =>
    simp only [operationBound, appendCrc_started_tx]
    rfl
  all_goals rfl

end Sys2Proof.Reference

namespace Sys2Proof.Machine

/-- Settles O56: the operation starts at `now` and ends where its procedure does, and no command sets `now` back. -/
theorem durationBounds : Obligations.DurationBounds := by
  intro i s t hready hlegal hexec
  have hgrows : s.now ≤ t.now := by
    rw [exec_eq_command] at hexec
    cases hexec
    exact command_now_ge _ _ _ s
  have hbound := Reference.operationBound_started i i s
  rw [exec_of_legal hready hlegal] at hexec
  cases hexec
  refine ⟨hgrows, ?_, fun hi => ?_⟩
  · rw [← hbound]
    exact Reference.outcome_now_le ((illegal_started i i s).trans hlegal)
  · rw [← hbound]
    refine Reference.outcome_now_of_not_receives ?_ _
    obtain rfl | rfl | rfl | rfl | rfl | rfl | rfl | rfl := hi <;> rfl

end Sys2Proof.Machine
end
